-- ==== Sys2Proof/Word.lean ====
section
/-! DEFINITION. The word types of the spec and the four-entry file type used for slots, tubes and lines. -/

namespace Sys2Proof

/-- A byte: `RX`, `TSEC`, `TMIN`, `THRS`, `WH`, `WM`, an RTC register (10_state.md R21 to R23, 20_memory.md R60). -/
abbrev Byte := BitVec 8

/-- A digit value or a nibble (30_encoding.md R100). -/
abbrev Nibble := BitVec 4

/-- A single bus bit: the acknowledge tag of a bus event (30_encoding.md R104). -/
abbrev Bit := BitVec 1

/-- An operation word (30_encoding.md R90). -/
abbrev OpWord := BitVec 32

/-- Four like things with indexes 0 to 3: digit slots, tubes, the lines of one tube (10_state.md R45, R46). -/
structure Quad (α : Type) where
  t0 : α
  t1 : α
  t2 : α
  t3 : α
deriving DecidableEq, Repr

/-- Entry `i` of a four-entry file. -/
def Quad.get {α : Type} (q : Quad α) (i : Fin 4) : α :=
  match i with
  | 0 => q.t0
  | 1 => q.t1
  | 2 => q.t2
  | 3 => q.t3

/-- The file with entry `i` replaced. -/
def Quad.set {α : Type} (q : Quad α) (i : Fin 4) (v : α) : Quad α :=
  match i with
  | 0 => { q with t0 := v }
  | 1 => { q with t1 := v }
  | 2 => { q with t2 := v }
  | 3 => { q with t3 := v }

/-- The file whose entry `i` is `f i`. -/
def Quad.tabulate {α : Type} (f : Fin 4 → α) : Quad α := ⟨f 0, f 1, f 2, f 3⟩

end Sys2Proof
end

