-- ==== Sys2Proof/Config.lean ====
section
/-! DEFINITION. What the platform fixes, what the spec leaves open, and the moves of the environment.
A constant declared `opaque` has no body: nothing can evaluate it, and a claim is true whatever it is. -/

namespace Sys2Proof

/-- Level of the button line at a tick: 0 reads pressed, 1 reads released (10_state.md R47). -/
inductive Level where
  | pressed
  | released
deriving DecidableEq, Repr, Inhabited

/-- What the current bus transaction has selected in the RTC device (20_memory.md R66). -/
inductive RtcSel where
  | none
  | addressedWFirst
  | addressedW
  | addressedR
deriving DecidableEq, Repr, Inhabited

/-- How a bus operation is answered when it completes (40_timebus.md R124).
The carried values are draws (93_implementation_defined.md U2, U3). -/
inductive BusAnswer where
  /-- The device model of 20_memory.md R67 follows the event. `ack` and `d` count only where that model
  determines nothing: a byte the device does not accept, a read while it is not addressed for reading. -/
  | device (ack : Bit) (d : Byte)
  /-- The engine finishes the operation but the device takes no part: absent, or replaced by the
  unconstrained oracle (40_timebus.md R130, 20_memory.md R66). Both values are draws. -/
  | undriven (ack : Bit) (d : Byte)
deriving DecidableEq, Repr, Inhabited

/-- One atomic event of 00_scope.md R9: which agent moves, with the environment's choices for that move. -/
inductive Move where
  /-- The main context takes its next micro-step (10_state.md R31). -/
  | main
  /-- TICK_EV with the button line at this level (60_exceptions.md R232). -/
  | tick (level : Level)
  /-- The bus engine completes the operation in flight (40_timebus.md R124). -/
  | complete (answer : BusAnswer)
  /-- The RTC device's own one-second tick (20_memory.md R70). -/
  | rtcTick
  /-- `.rtc_set hh:mm:ss` (30_encoding.md R97). -/
  | rtcSet (hours minutes seconds : Byte)
  /-- `.noresp`: from here on no operation completes (30_encoding.md R97). -/
  | noResp
  /-- RESET, with the selector the device is left in (10_state.md R48, 93_implementation_defined.md U18). -/
  | reset (sel : RtcSel)
deriving DecidableEq, Repr, Inhabited

/-- Whether the blanking of the idle pair is pushed in the same iteration (00_scope.md R6, 44_modecontroller.md R205). -/
inductive BlankPush where
  | sameIteration
  | nextRefresh
deriving DecidableEq, Repr, Inhabited

/-- RTC register address of seconds (00_scope.md R6). -/
def Config.regSec : Byte := 0x00#8

/-- RTC register address of minutes (00_scope.md R6). -/
def Config.regMin : Byte := 0x01#8

/-- RTC register address of hours (00_scope.md R6). -/
def Config.regHrs : Byte := 0x02#8

/-- The blank sentinel of a digit slot (00_scope.md R6). -/
def Config.blank : Nibble := 0xA#4

/-- Saturation value of the hold counter (00_scope.md R6). -/
def Config.holdMax : Nat := 100

/-- Smallest count that is a ShortPress (00_scope.md R6). -/
def Config.shortMin : Nat := 2

/-- Largest count that is a ShortPress (00_scope.md R6). -/
def Config.shortMax : Nat := 19

/-- Largest count of the dead zone (00_scope.md R6). -/
def Config.deadMax : Nat := 30

/-- Largest working hours before the wrap (00_scope.md R6). -/
def Config.hrsMax : Nat := 23

/-- Largest working minutes before the wrap (00_scope.md R6). -/
def Config.minMax : Nat := 59

/-- The acknowledge the controller answers to a received byte, NACK (00_scope.md R6, decision D3). -/
def Config.rdAck : Bit := 1#1

/-- The device-address-for-write byte, OPEN (00_scope.md R6, D2). -/
opaque Config.slaW : Byte

/-- How far `SLA_R` lies from `SLA_W`, less one; any value gives two different bytes. -/
opaque Config.slaGap : Fin 255

/-- The device-address-for-read byte, OPEN and different from `SLA_W` (00_scope.md R6, D2). -/
def Config.slaR : Byte := Config.slaW + BitVec.ofNat 8 (Config.slaGap.val + 1)

/-- TUBE_MAP, OPEN: for each tube a bijection from digit bit number to line number (43_displaydriver.md R183, D5). -/
opaque Config.tubeMap : Fin 4 → Equiv.Perm (Fin 4)

/-- dec2bcd above 99, a parameter (00_scope.md R14, D13, 93_implementation_defined.md U5). -/
opaque Config.dec2bcdBeyond : Byte → Byte

/-- bcd2dec of a byte with a nibble above 9, a parameter that stays in 0..165 (00_scope.md R15, D13, U5). -/
opaque Config.bcd2decBeyond : Byte → Fin 166

/-- The free choice of the next move when no input is pending (00_scope.md R8, D17). -/
opaque Config.freeMove : Nat → Move

end Sys2Proof
end

