-- ==== Sys2Proof/Syntax.lean ====
section
/-! DEFINITION. The 21 operations, one constructor per row of spec/opcode_table.json (30_encoding.md R93). -/

namespace Sys2Proof

/-- An operation with its operands as the word carries them (30_encoding.md R91 to R93). -/
inductive Instr where
  -- TimeBus
  | start
  | stop
  | wrbyte (a : Byte)
  | rdbyte
  -- RtcDevice
  | rdreg (a : Byte)
  | wrreg (a b : Byte)
  | rdtime
  /-- hours, minutes, seconds, decimal -/
  | wrtime (a b c : Byte)
  -- InputDebouncer
  | tick (s : Level)
  | tstsp
  | clrsp
  | tstlp
  | clrlp
  -- DisplayDriver
  | setdig (t : Fin 4) (v : Nibble)
  | refresh
  | displ (n : BitVec 7)
  | dispr (n : BitVec 7)
  | blon
  | bloff
  | bltog
  -- ModeController
  | modestep
deriving DecidableEq, Repr

end Sys2Proof
end

