-- ==== Sys2Proof/WellFormed.lean ====
section
/-! DEFINITION. Which terms of `Instr` have a legal operation word. -/

namespace Sys2Proof

/-- The display operand is at most 99; every other operand is legal at every value (30_encoding.md R94 (c)). -/
def Instr.wellFormed : Instr → Bool
  | .start => true
  | .stop => true
  | .wrbyte _ => true
  | .rdbyte => true
  | .rdreg _ => true
  | .wrreg _ _ => true
  | .rdtime => true
  | .wrtime _ _ _ => true
  | .tick _ => true
  | .tstsp => true
  | .clrsp => true
  | .tstlp => true
  | .clrlp => true
  | .setdig _ _ => true
  | .refresh => true
  | .displ n => decide (n.toNat ≤ 99)
  | .dispr n => decide (n.toNat ≤ 99)
  | .blon => true
  | .bloff => true
  | .bltog => true
  | .modestep => true

end Sys2Proof
end

