-- ==== Sys2Proof/Decode.lean ====
section
/-! DEFINITION. The decoder, total on every 32-bit word and refusing by name, and the encoder (30_encoding.md R90 to R95).
A word is never stored in a byte-addressed memory and has no byte order (20_memory.md R63 (f)), so both work on the word. -/

namespace Sys2Proof

/-- The seven formats of 30_encoding.md R91. -/
inductive Format where
  | n
  | a
  | ab
  | abc
  | s
  | tv
  | d
deriving DecidableEq, Repr

/-- The mask of a format: a 1 at `op` and at every must-be-zero bit (30_encoding.md R91). -/
def formatMask : Format → OpWord
  | .n => 0xFFFFFFFF#32
  | .a => 0xFF00FFFF#32
  | .ab => 0xFF0000FF#32
  | .abc => 0xFF000000#32
  | .s => 0xFFFEFFFF#32
  | .tv => 0xFFFCF0FF#32
  | .d => 0xFF80FFFF#32

/-- The format of an operation code; none for a code that is not in the table (30_encoding.md R93). -/
def opFormat (op : Byte) : Option Format :=
  match op with
  | 0x10#8 => some .n
  | 0x11#8 => some .n
  | 0x12#8 => some .a
  | 0x13#8 => some .n
  | 0x20#8 => some .a
  | 0x21#8 => some .ab
  | 0x22#8 => some .n
  | 0x23#8 => some .abc
  | 0x30#8 => some .s
  | 0x31#8 => some .n
  | 0x32#8 => some .n
  | 0x33#8 => some .n
  | 0x34#8 => some .n
  | 0x40#8 => some .tv
  | 0x41#8 => some .n
  | 0x42#8 => some .d
  | 0x43#8 => some .d
  | 0x44#8 => some .n
  | 0x45#8 => some .n
  | 0x46#8 => some .n
  | 0x50#8 => some .n
  | _ => none

/-- Why a word is refused (30_encoding.md R94). -/
inductive DecodeError where
  /-- (a) the operation code is not in the table -/
  | illegalOp
  /-- (b) a must-be-zero bit is set -/
  | reservedBits
  /-- (c) a display operand in 100..127 -/
  | reservedOperand
deriving DecidableEq, Repr

/-- Field `op`, bits 31:24 (30_encoding.md R90). -/
def opField (w : OpWord) : Byte := w.extractLsb' 24 8

/-- Field `a`, bits 23:16. -/
def aField (w : OpWord) : Byte := w.extractLsb' 16 8

/-- Field `b`, bits 15:8. -/
def bField (w : OpWord) : Byte := w.extractLsb' 8 8

/-- Field `c`, bits 7:0. -/
def cField (w : OpWord) : Byte := w.extractLsb' 0 8

/-- The line level a bit stands for: 0 pressed, 1 released (30_encoding.md R104). -/
def levelOfBit (b : Bit) : Level := if b = 0#1 then .pressed else .released

/-- The bit of a line level. -/
def bitOfLevel : Level → Bit
  | .pressed => 0#1
  | .released => 1#1

/-- The display operand as the word carries it: `a[6:0]` (30_encoding.md R91, R92). -/
def displayField (w : OpWord) : BitVec 7 := (aField w).extractLsb' 0 7

/-- A display operation, its operand at most 99 (30_encoding.md R94 (c)). -/
def displayInstr (mk : BitVec 7 → Instr) (w : OpWord) : Except DecodeError Instr :=
  if (displayField w).toNat ≤ 99 then .ok (mk (displayField w)) else .error .reservedOperand

/-- The operation a word with clean must-be-zero bits selects, operands taken as they stand (30_encoding.md R92, R93). -/
def instrOfWord (w : OpWord) : Except DecodeError Instr :=
  match opField w with
  | 0x10#8 => .ok .start
  | 0x11#8 => .ok .stop
  | 0x12#8 => .ok (.wrbyte (aField w))
  | 0x13#8 => .ok .rdbyte
  | 0x20#8 => .ok (.rdreg (aField w))
  | 0x21#8 => .ok (.wrreg (aField w) (bField w))
  | 0x22#8 => .ok .rdtime
  | 0x23#8 => .ok (.wrtime (aField w) (bField w) (cField w))
  | 0x30#8 => .ok (.tick (levelOfBit ((aField w).extractLsb' 0 1)))
  | 0x31#8 => .ok .tstsp
  | 0x32#8 => .ok .clrsp
  | 0x33#8 => .ok .tstlp
  | 0x34#8 => .ok .clrlp
  | 0x40#8 => .ok (.setdig ((aField w).extractLsb' 0 2).toFin ((bField w).extractLsb' 0 4))
  | 0x41#8 => .ok .refresh
  | 0x42#8 => displayInstr .displ w
  | 0x43#8 => displayInstr .dispr w
  | 0x44#8 => .ok .blon
  | 0x45#8 => .ok .bloff
  | 0x46#8 => .ok .bltog
  | 0x50#8 => .ok .modestep
  | _ => .error .illegalOp

/-- Decode a word: the operation code is in the table, the must-be-zero bits of its format are clear, and the
operand is in range (30_encoding.md R91, R94). -/
def decode (w : OpWord) : Except DecodeError Instr :=
  match opFormat (opField w) with
  | none => .error .illegalOp
  | some f =>
    if w &&& formatMask f = opField w ++ 0#24 then instrOfWord w else .error .reservedBits

/-- The word with these four fields: `op * 2^24 + a * 2^16 + b * 2^8 + c` (30_encoding.md R90). -/
def packWord (op a b c : Byte) : OpWord := op ++ a ++ b ++ c

/-- The word of an operation (30_encoding.md R90 to R93). -/
def encode : Instr → OpWord
  | .start => packWord 0x10#8 0#8 0#8 0#8
  | .stop => packWord 0x11#8 0#8 0#8 0#8
  | .wrbyte a => packWord 0x12#8 a 0#8 0#8
  | .rdbyte => packWord 0x13#8 0#8 0#8 0#8
  | .rdreg a => packWord 0x20#8 a 0#8 0#8
  | .wrreg a b => packWord 0x21#8 a b 0#8
  | .rdtime => packWord 0x22#8 0#8 0#8 0#8
  | .wrtime a b c => packWord 0x23#8 a b c
  | .tick s => packWord 0x30#8 (0#7 ++ bitOfLevel s) 0#8 0#8
  | .tstsp => packWord 0x31#8 0#8 0#8 0#8
  | .clrsp => packWord 0x32#8 0#8 0#8 0#8
  | .tstlp => packWord 0x33#8 0#8 0#8 0#8
  | .clrlp => packWord 0x34#8 0#8 0#8 0#8
  | .setdig t v => packWord 0x40#8 (0#6 ++ BitVec.ofNat 2 t.val) (0#4 ++ v) 0#8
  | .refresh => packWord 0x41#8 0#8 0#8 0#8
  | .displ n => packWord 0x42#8 (0#1 ++ n) 0#8 0#8
  | .dispr n => packWord 0x43#8 (0#1 ++ n) 0#8 0#8
  | .blon => packWord 0x44#8 0#8 0#8 0#8
  | .bloff => packWord 0x45#8 0#8 0#8 0#8
  | .bltog => packWord 0x46#8 0#8 0#8 0#8
  | .modestep => packWord 0x50#8 0#8 0#8 0#8

/-- The table row of an operation, as `opcode_table.json` gives it: its mask and its match (30_encoding.md R91, R93). -/
structure OpRow where
  mask : OpWord
  pattern : OpWord
deriving DecidableEq, Repr

/-- The 21 rows of 30_encoding.md R93, in its order. -/
def opRows : List OpRow :=
  [ ⟨0xFFFFFFFF#32, 0x10000000#32⟩, ⟨0xFFFFFFFF#32, 0x11000000#32⟩, ⟨0xFF00FFFF#32, 0x12000000#32⟩,
    ⟨0xFFFFFFFF#32, 0x13000000#32⟩, ⟨0xFF00FFFF#32, 0x20000000#32⟩, ⟨0xFF0000FF#32, 0x21000000#32⟩,
    ⟨0xFFFFFFFF#32, 0x22000000#32⟩, ⟨0xFF000000#32, 0x23000000#32⟩, ⟨0xFFFEFFFF#32, 0x30000000#32⟩,
    ⟨0xFFFFFFFF#32, 0x31000000#32⟩, ⟨0xFFFFFFFF#32, 0x32000000#32⟩, ⟨0xFFFFFFFF#32, 0x33000000#32⟩,
    ⟨0xFFFFFFFF#32, 0x34000000#32⟩, ⟨0xFFFCF0FF#32, 0x40000000#32⟩, ⟨0xFFFFFFFF#32, 0x41000000#32⟩,
    ⟨0xFF80FFFF#32, 0x42000000#32⟩, ⟨0xFF80FFFF#32, 0x43000000#32⟩, ⟨0xFFFFFFFF#32, 0x44000000#32⟩,
    ⟨0xFFFFFFFF#32, 0x45000000#32⟩, ⟨0xFFFFFFFF#32, 0x46000000#32⟩, ⟨0xFFFFFFFF#32, 0x50000000#32⟩ ]

/-- A word selects a row when `w & mask = match` (30_encoding.md R91). -/
def OpRow.selects (r : OpRow) (w : OpWord) : Bool := w &&& r.mask == r.pattern

/-- What the decoder reads from an instruction of `nbits` bits given as one number: the word is 32 bits long
(30_encoding.md R90), so a longer instruction is no instruction of this machine. -/
def decodeTableWord (nbits w : Nat) : Option Instr :=
  if nbits ≤ 32 then
    match decode (BitVec.ofNat 32 (w % 2 ^ nbits)) with
    | .ok i => some i
    | .error _ => none
  else none

end Sys2Proof
end

