-- ==== Sys2Proof/Machine/State.lean ====
section
/-! DEFINITION. The state of CORE, of the RTC device beside it, and the reset state (10_state.md, 20_memory.md R66). -/

namespace Sys2Proof.Machine

/-- The fixed parameters of the instance (00_scope.md R6). No operation writes them. -/
structure Params where
  /-- `SLA_W` -/
  slaW : Byte
  /-- `SLA_R` -/
  slaR : Byte
  /-- `TUBE_MAP`: entry `t`, entry `k` is the line of tube `t` that carries digit bit `k` -/
  tubeMap : Quad (Quad (Fin 4))
  /-- `SETTINGS_BLANK_PUSH` -/
  blankPush : BlankPush
  /-- `PROGRAM` -/
  program : List OpWord
  /-- the flag `loops` of PROGRAM -/
  loops : Bool
deriving DecidableEq, Repr

/-- `BUSOP`: the operation handed to the bus engine and not yet completed (10_state.md R42). -/
inductive BusOp where
  | none
  | start
  | write (b : Byte)
  | read
deriving DecidableEq, Repr

/-- `PHASE`: whether a START has been completed since the last STOP (10_state.md R42). -/
inductive Phase where
  | idle
  | active
deriving DecidableEq, Repr

/-- A bus event of `BusTrace` (10_state.md R43). -/
inductive BusEvent where
  | start
  /-- the controller sent `b`; the device answered `ack`, 0 acknowledged -/
  | wbyte (b : Byte) (ack : Bit)
  /-- the controller received `d` and answered `nack` -/
  | rbyte (d : Byte) (nack : Bit)
  | stop
deriving DecidableEq, Repr

/-- The three registers of the time read (10_state.md R22). -/
inductive TimeReg where
  | tsec
  | tmin
  | thrs
deriving DecidableEq, Repr

/-- A decimal operand: a constant of the word, or a working register read when the micro-step is reached (30_encoding.md R92). -/
inductive NumArg where
  | lit (n : Byte)
  | wh
  | wm
deriving DecidableEq, Repr

/-- A byte to send: a constant, a device address byte, or the BCD form of a decimal operand. -/
inductive ByteArg where
  | lit (b : Byte)
  | slaW
  | slaR
  | bcd (n : NumArg)
deriving DecidableEq, Repr

/-- A digit value: a constant, a nibble of a time register, or a decimal digit of an operand (44_modecontroller.md R201, 43_displaydriver.md R184). -/
inductive DigArg where
  | lit (v : Nibble)
  | hi (r : TimeReg)
  | lo (r : TimeReg)
  | tens (n : NumArg)
  | units (n : NumArg)
deriving DecidableEq, Repr

/-- The operation an `issue` hands to the bus engine (40_timebus.md R122). -/
inductive BusCmd where
  | start
  | write (a : ByteArg)
  | read
deriving DecidableEq, Repr

/-- A register action of the main context, one micro-step (10_state.md R32). -/
inductive Action where
  | issue (c : BusCmd)
  | stop
  | loadTime (r : TimeReg)
  | tstSp
  | clrSp
  | tstLp
  | clrLp
  | setDig (t : Fin 4) (v : DigArg)
  | refresh
  | blOn
  | blOff
  | blToggle
  /-- the one micro-step of 44_modecontroller.md R201 C4 that seeds `WH`, `WM`, clears `CHG` and sets `MODE` to 1 -/
  | seed
  | incWh
  | incWm
  | markChanged
  /-- `MODE <- 2`, 44_modecontroller.md R202 H3 -/
  | toMinutes
  /-- `MODE <- 0`, 44_modecontroller.md R203 M3 -/
  | toClock
deriving DecidableEq, Repr

/-- The 1-bit value a conditional micro-step tests (44_modecontroller.md R218 (c)). -/
inductive Cond where
  | latchT
  | changed
deriving DecidableEq, Repr

/-- The micro-steps under a conditional, by the place they have in 44_modecontroller.md R201 to R203. -/
inductive Block where
  | clockShort
  | clockLong
  | hoursShort
  | hoursLong
  | minutesShort
  | minutesLong
  | commit
deriving DecidableEq, Repr

/-- A micro-step (10_state.md R32). -/
inductive MicroStep where
  | act (a : Action)
  | await
  | ifSet (c : Cond) (b : Block)
deriving DecidableEq, Repr

/-- The RTC registers: address and byte, addresses rising, none equal to what an unlisted address reads as. -/
abbrev Memory := List Host.Cell

/-- CORE raises no fault: there is no exception and no fault code (60_exceptions.md R230), so no constructor. -/
inductive Fault where
deriving DecidableEq, Repr

/-- Why a step has no meaning: the spec's `refuse` (00_scope.md R12). Each is safe: the model stops where the spec gives nothing. -/
inductive Refusal where
  /-- Raised by `exec` for an operation without a meaning; no arm is left so. Safe. -/
  | notModelled (mnemonic : String)
  /-- Raised by the fetch of a word whose operation code is not in the table (30_encoding.md R94 (a)). Safe. -/
  | illegalWord (w : OpWord)
  /-- Raised by the fetch of a word with a must-be-zero bit set (30_encoding.md R94 (b)). Safe. -/
  | reservedWord (w : OpWord)
  /-- Raised by the fetch of a display word with an operand in 100..127 (30_encoding.md R94 (c)). Safe. -/
  | reservedOperand (w : OpWord)
  /-- Raised by a display whose operand is above 99 when it is reached (44_modecontroller.md R214, D24). Safe. -/
  | displayOperand (n : Byte)
  /-- Raised by WRBYTE, RDBYTE and STOP while PHASE is idle (40_timebus.md R131). Safe. -/
  | phaseIdle
  /-- Raised by an `issue` while an operation is in flight (40_timebus.md R122 `requires`); no run reaches it. Safe. -/
  | busBusy
  /-- Raised by MODESTEP while MODE is 3 (44_modecontroller.md R200); no run reaches it. Safe. -/
  | modeUnused
deriving DecidableEq, Repr

/-- The whole machine: CORE's registers, the device beside it, and the environment's pending moves. -/
structure State where
  /-- the parameters of the instance (00_scope.md R6) -/
  par : Params
  /-- `RX` (10_state.md R21) -/
  rx : Byte
  /-- `TSEC` (10_state.md R22) -/
  tsec : Byte
  /-- `TMIN` (10_state.md R22) -/
  tmin : Byte
  /-- `THRS` (10_state.md R22) -/
  thrs : Byte
  /-- `WH` (10_state.md R23) -/
  wh : Byte
  /-- `WM` (10_state.md R23) -/
  wm : Byte
  /-- `pc`, an index into PROGRAM (10_state.md R30) -/
  pc : Nat
  /-- `cont`, the pending micro-steps (10_state.md R32) -/
  cont : List MicroStep
  /-- `SP` (10_state.md R35) -/
  sp : Bool
  /-- `LP` (10_state.md R35) -/
  lp : Bool
  /-- `CHG` (10_state.md R36) -/
  chg : Bool
  /-- `T` (10_state.md R37) -/
  latch : Bool
  /-- `MODE`: 0 ClockMode, 1 SettingsMode Hours, 2 SettingsMode Minutes (10_state.md R40) -/
  mode : BitVec 2
  /-- `HOLD` (10_state.md R41) -/
  hold : BitVec 7
  /-- `BUSOP` (10_state.md R42) -/
  busop : BusOp
  /-- `DONE` (10_state.md R42) -/
  opDone : Bool
  /-- `PHASE` (10_state.md R42) -/
  phase : Phase
  /-- `BusTrace`, oldest first (10_state.md R43) -/
  trace : List BusEvent
  /-- `BL`, true is on (10_state.md R44) -/
  bl : Bool
  /-- `DIG[0..3]` (10_state.md R45) -/
  dig : Quad Nibble
  /-- `L[t][j]` (10_state.md R46) -/
  lines : Quad (Quad Bool)
  /-- `RTC.reg` of the device (20_memory.md R66) -/
  rtcMem : Memory
  /-- `RTC.ptr` of the device (20_memory.md R66) -/
  rtcPtr : Byte
  /-- `RTC.sel` of the device (20_memory.md R66) -/
  rtcSel : RtcSel
  /-- whether operations can complete at all (40_timebus.md R125, `.noresp` of 30_encoding.md R97) -/
  responding : Bool
  /-- the model's own: moves the environment has chosen and not yet made, next first -/
  inputs : List Move
  /-- the model's own: how many free moves have been drawn -/
  draws : Nat
deriving DecidableEq, Repr

/-- The lines of one tube that show digit value `v` under the wiring `m`: line `j` carries the bit `k` with `m k = j` (10_state.md R46, reset value). -/
def lineImage (m : Quad (Fin 4)) (v : Nibble) : Quad Bool :=
  Quad.tabulate fun j =>
    (m.t0 == j && v.getLsbD 0) || (m.t1 == j && v.getLsbD 1) || (m.t2 == j && v.getLsbD 2) || (m.t3 == j && v.getLsbD 3)

/-- The parameters of the real block: PROGRAM = [MODESTEP], looping (10_state.md R30); the OPEN ones are Config's (00_scope.md R6). -/
def Params.platform : Params where
  slaW := Config.slaW
  slaR := Config.slaR
  tubeMap := Quad.tabulate fun t => Quad.tabulate fun k => Config.tubeMap t k
  blankPush := .sameIteration
  program := [0x50000000#32]
  loops := true

/-- The machine right after reset (10_state.md R51, 70_reset_and_hazards.md R261, R262). -/
def State.reset : State where
  par := Params.platform
  rx := 0x00#8
  tsec := 0x00#8
  tmin := 0x00#8
  thrs := 0x00#8
  wh := 0x00#8
  wm := 0x00#8
  pc := 0
  cont := []
  sp := false
  lp := false
  chg := false
  latch := false
  mode := 0#2
  hold := 0#7
  busop := .none
  opDone := false
  phase := .idle
  trace := []
  bl := false
  dig := ⟨Config.blank, Config.blank, Config.blank, Config.blank⟩
  lines := Quad.tabulate fun t => lineImage (Params.platform.tubeMap.get t) Config.blank
  rtcMem := []
  rtcPtr := 0x00#8
  rtcSel := .none
  responding := true
  inputs := []
  draws := 0

end Sys2Proof.Machine
end

