-- ==== Sys2Proof/Machine/Expansion.lean ====
section
/-! DEFINITION. The expansion of every operation into micro-steps (30_encoding.md R96), in the order of its rule. -/

namespace Sys2Proof.Machine

/-- START: issue, then await (40_timebus.md R126). -/
def startSteps : List MicroStep := [.act (.issue .start), .await]

/-- WRBYTE: issue, then await (40_timebus.md R128). -/
def sendSteps (a : ByteArg) : List MicroStep := [.act (.issue (.write a)), .await]

/-- RDBYTE: issue, then await; the result is RX (40_timebus.md R129). -/
def receiveSteps : List MicroStep := [.act (.issue .read), .await]

/-- STOP: one micro-step, no wait (40_timebus.md R127). -/
def stopSteps : List MicroStep := [.act .stop]

/-- RDREG: seven primitives (41_rtcdevice.md R140). -/
def readRegSteps (a : ByteArg) : List MicroStep :=
  startSteps ++ sendSteps .slaW ++ sendSteps a ++ startSteps ++ sendSteps .slaR ++ receiveSteps ++ stopSteps

/-- WRREG: five primitives (41_rtcdevice.md R142). -/
def writeRegSteps (a b : ByteArg) : List MicroStep :=
  startSteps ++ sendSteps .slaW ++ sendSteps a ++ sendSteps b ++ stopSteps

/-- RDTIME: seconds, minutes, hours, each copied from RX after its STOP (41_rtcdevice.md R144). -/
def readTimeSteps : List MicroStep :=
  readRegSteps (.lit Config.regSec) ++ [.act (.loadTime .tsec)] ++
  (readRegSteps (.lit Config.regMin) ++ [.act (.loadTime .tmin)]) ++
  (readRegSteps (.lit Config.regHrs) ++ [.act (.loadTime .thrs)])

/-- WRTIME: seconds, minutes, hours, each converted to BCD (41_rtcdevice.md R146). -/
def writeTimeSteps (hours minutes seconds : NumArg) : List MicroStep :=
  writeRegSteps (.lit Config.regSec) (.bcd seconds) ++
  writeRegSteps (.lit Config.regMin) (.bcd minutes) ++
  writeRegSteps (.lit Config.regHrs) (.bcd hours)

/-- DISPL: tens to tube 0, units to tube 1, refresh (43_displaydriver.md R184). -/
def displayLeftSteps (n : NumArg) : List MicroStep :=
  [.act (.setDig 0 (.tens n)), .act (.setDig 1 (.units n)), .act .refresh]

/-- DISPR: tens to tube 2, units to tube 3, refresh (43_displaydriver.md R185). -/
def displayRightSteps (n : NumArg) : List MicroStep :=
  [.act (.setDig 2 (.tens n)), .act (.setDig 3 (.units n)), .act .refresh]

/-- The test and handling of ShortPress, then of LongPress (44_modecontroller.md R200, R204). -/
def pressSteps (short long : Block) : List MicroStep :=
  [.act .tstSp, .ifSet .latchT short, .act .tstLp, .ifSet .latchT long]

/-- The push of the blanked pair; absent for `next_refresh` (44_modecontroller.md R205). -/
def blankPushSteps (p : BlankPush) : List MicroStep :=
  match p with
  | .sameIteration => [.act .refresh]
  | .nextRefresh => []

/-- ClockMode body (44_modecontroller.md R201). -/
def clockBody : List MicroStep :=
  readTimeSteps ++
  [.act (.setDig 0 (.hi .thrs)), .act (.setDig 1 (.lo .thrs)),
   .act (.setDig 2 (.hi .tmin)), .act (.setDig 3 (.lo .tmin)), .act .refresh] ++
  pressSteps .clockShort .clockLong

/-- SettingsMode Hours body (44_modecontroller.md R202). -/
def hoursBody (p : BlankPush) : List MicroStep :=
  displayLeftSteps .wh ++
  [.act (.setDig 2 (.lit Config.blank)), .act (.setDig 3 (.lit Config.blank))] ++ blankPushSteps p ++
  pressSteps .hoursShort .hoursLong

/-- SettingsMode Minutes body (44_modecontroller.md R203). -/
def minutesBody (p : BlankPush) : List MicroStep :=
  displayRightSteps .wm ++
  [.act (.setDig 0 (.lit Config.blank)), .act (.setDig 1 (.lit Config.blank))] ++ blankPushSteps p ++
  pressSteps .minutesShort .minutesLong

/-- The micro-steps under a conditional (44_modecontroller.md R201 to R203). -/
def blockSteps (b : Block) : List MicroStep :=
  match b with
  | .clockShort => [.act .clrSp, .act .blToggle]
  | .clockLong => [.act .clrLp, .act .seed]
  | .hoursShort => [.act .clrSp, .act .incWh, .act .markChanged]
  | .hoursLong => [.act .clrLp, .act .toMinutes]
  | .minutesShort => [.act .clrSp, .act .incWm, .act .markChanged]
  | .minutesLong => [.act .clrLp, .ifSet .changed .commit, .act .toClock]
  | .commit => writeTimeSteps .wh .wm (.lit 0x00#8)

end Sys2Proof.Machine
end

