-- ==== Sys2Proof/Machine/Operands.lean ====
section
/-! DEFINITION. The operand forms of micro-steps and the pure helpers: nibbles, BCD, decimal digits, validity. -/

namespace Sys2Proof.Machine

/-- `b[7:4]` (00_scope.md R10). -/
def hiNibble (b : Byte) : Nibble := b.extractLsb' 4 4

/-- `b[3:0]` (00_scope.md R10). -/
def loNibble (b : Byte) : Nibble := b.extractLsb' 0 4

/-- `dec2bcd` (00_scope.md R14): `(n / 10) * 16 + n % 10` for `n <= 99`; above that a parameter. -/
def dec2bcd (n : Byte) : Byte :=
  if n.toNat ≤ 99 then BitVec.ofNat 8 (n.toNat / 10 * 16 + n.toNat % 10) else Config.dec2bcdBeyond n

/-- Both nibbles are decimal digits: the domain of `bcd2dec` (00_scope.md R15). -/
def isBcd (b : Byte) : Bool := decide ((hiNibble b).toNat ≤ 9) && decide ((loNibble b).toNat ≤ 9)

/-- `bcd2dec` (00_scope.md R15): `b[7:4] * 10 + b[3:0]` on BCD bytes; on others a parameter in 0..165. -/
def bcd2dec (b : Byte) : Byte :=
  if isBcd b then BitVec.ofNat 8 ((hiNibble b).toNat * 10 + (loNibble b).toNat)
  else BitVec.ofNat 8 (Config.bcd2decBeyond b).val

/-- A valid seconds or minutes byte (00_scope.md R16). -/
def validSixty (b : Byte) : Bool := isBcd b && decide ((hiNibble b).toNat ≤ 5)

/-- A valid hours byte (00_scope.md R16). -/
def validHours (b : Byte) : Bool :=
  isBcd b && decide ((hiNibble b).toNat ≤ 2) && decide ((hiNibble b).toNat * 10 + (loNibble b).toNat ≤ 23)

/-- A time register by name. -/
def readTimeReg (r : TimeReg) (s : State) : Byte :=
  match r with
  | .tsec => s.tsec
  | .tmin => s.tmin
  | .thrs => s.thrs

/-- A decimal operand, read when its micro-step is reached (30_encoding.md R92). -/
def numArg (n : NumArg) (s : State) : Byte :=
  match n with
  | .lit v => v
  | .wh => s.wh
  | .wm => s.wm

/-- A byte to send (41_rtcdevice.md R140, R142, R146). -/
def byteArg (a : ByteArg) (s : State) : Byte :=
  match a with
  | .lit b => b
  | .slaW => s.par.slaW
  | .slaR => s.par.slaR
  | .bcd n => dec2bcd (numArg n s)

/-- A decimal digit of a display operand; above 99 the display is refused (43_displaydriver.md R184, 30_encoding.md R94 (c)). -/
def displayDigit (n : Byte) (digit : Nat → Nat) : Except Refusal Nibble :=
  if n.toNat ≤ 99 then .ok (BitVec.ofNat 4 (digit n.toNat)) else .error (.displayOperand n)

/-- A digit value (43_displaydriver.md R184, R185, 44_modecontroller.md R201). -/
def digArg (v : DigArg) (s : State) : Except Refusal Nibble :=
  match v with
  | .lit d => .ok d
  | .hi r => .ok (hiNibble (readTimeReg r s))
  | .lo r => .ok (loNibble (readTimeReg r s))
  | .tens n => displayDigit (numArg n s) (fun k => k / 10)
  | .units n => displayDigit (numArg n s) (fun k => k % 10)

end Sys2Proof.Machine
end

