-- ==== Sys2Proof/Machine/Flags.lean ====
section
/-! DEFINITION. Every flag computation: the button classifier, the event flags and their latch, CHG, and the wrap of the working values. -/

namespace Sys2Proof.Machine

/-- The released sample that ends a hold of `c` ticks: noise, ShortPress, dead zone or LongPress (42_inputdebouncer.md R160, 30_encoding.md R103). -/
def classifyHold (c : Nat) (s : State) : State :=
  if c < Config.shortMin then s
  else if c ≤ Config.shortMax then { s with sp := true }
  else if c ≤ Config.deadMax then s
  else { s with lp := true }

/-- One sample of the button: count while pressed, classify and zero when released (42_inputdebouncer.md R160). -/
def sampleButton (level : Level) (s : State) : State :=
  match level with
  | .pressed => if s.hold.toNat < Config.holdMax then { s with hold := s.hold + 1#7 } else s
  | .released => if s.hold = 0#7 then s else classifyHold s.hold.toNat { s with hold := 0#7 }

/-- `T <- SP` (42_inputdebouncer.md R165). -/
def testShort (s : State) : State := { s with latch := s.sp }

/-- `SP <- 0` (42_inputdebouncer.md R166). -/
def clearShort (s : State) : State := { s with sp := false }

/-- `T <- LP` (42_inputdebouncer.md R167). -/
def testLong (s : State) : State := { s with latch := s.lp }

/-- `LP <- 0` (42_inputdebouncer.md R168). -/
def clearLong (s : State) : State := { s with lp := false }

/-- `CHG <- 1` (10_state.md R36). -/
def markChanged (s : State) : State := { s with chg := true }

/-- `x + 1` formed as a natural, then 0 if above the bound (44_modecontroller.md R211, 00_scope.md R19 (b)). -/
def wrapInc (bound : Nat) (x : Byte) : Byte :=
  if x.toNat + 1 > bound then 0x00#8 else BitVec.ofNat 8 (x.toNat + 1)

/-- The 1-bit value a conditional tests (44_modecontroller.md R218 (c)). -/
def condHolds (c : Cond) (s : State) : Bool :=
  match c with
  | .latchT => s.latch
  | .changed => s.chg

end Sys2Proof.Machine
end

