-- ==== Sys2Proof/Machine/Ops.lean ====
section
/-! DEFINITION. The named operations over memory and registers: the RTC registers, the device, the bus, the display, the
micro-step of the main context, the tick interrupt, and reset. -/

namespace Sys2Proof.Machine

/-! ### Memory: the RTC register space (20_memory.md R60) -/

/-- What a register the list does not name reads as. DESIGN CHOICE, log 6: the spec lets the initial content be anything. -/
def Memory.unlisted : Byte := 0x00#8

/-- The byte at an address. -/
def Memory.read (m : Memory) (a : Nat) : Byte :=
  match m with
  | [] => Memory.unlisted
  | (k, v) :: rest => if k = a then v else Memory.read rest a

/-- The memory with one byte replaced, kept in canonical form. -/
def Memory.write (m : Memory) (a : Nat) (v : Byte) : Memory :=
  match m with
  | [] => if v = Memory.unlisted then [] else [(a, v)]
  | (k, w) :: rest =>
    if a < k then (if v = Memory.unlisted then (k, w) :: rest else (a, v) :: (k, w) :: rest)
    else if a = k then (if v = Memory.unlisted then rest else (a, v) :: rest)
    else (k, w) :: Memory.write rest a v

/-- The canonical form: 8-bit addresses strictly rising, no entry equal to what an unlisted address reads as. -/
def Memory.wf (m : Memory) : Bool :=
  match m with
  | [] => true
  | (k, v) :: rest =>
    decide (k < 256) && decide (v ≠ Memory.unlisted) && rest.all (fun c => decide (k < c.1)) && Memory.wf rest

/-- `MemRead(a, 1)`: register `a` of the device (20_memory.md R68). -/
def rtcRead (s : State) (a : Byte) : Byte := s.rtcMem.read a.toNat

/-- `MemWrite(a, 1, v)`: register `a` of the device becomes `v` (20_memory.md R69). -/
def rtcWrite (a v : Byte) (s : State) : State := { s with rtcMem := s.rtcMem.write a.toNat v }

/-! ### The RTC device (20_memory.md R67, R70) -/

/-- The device sees START or STOP: nothing is selected (20_memory.md R67). -/
def deviceFrame (s : State) : State := { s with rtcSel := .none }

/-- Whether the device accepts a byte sent to it, and so acknowledges it (20_memory.md R67). -/
def deviceAccepts (b : Byte) (s : State) : Bool :=
  match s.rtcSel with
  | .none => b == s.par.slaW || b == s.par.slaR
  | .addressedWFirst => true
  | .addressedW => true
  | .addressedR => false

/-- The device sees a byte sent by the controller (20_memory.md R67). -/
def deviceByte (b : Byte) (s : State) : State :=
  match s.rtcSel with
  | .none =>
    if b = s.par.slaW then { s with rtcSel := .addressedWFirst }
    else if b = s.par.slaR then { s with rtcSel := .addressedR }
    else s
  | .addressedWFirst => { s with rtcPtr := b, rtcSel := .addressedW }
  | .addressedW => rtcWrite s.rtcPtr b s
  | .addressedR => s

/-- The byte the device drives; a draw while it is not addressed for reading (20_memory.md R67, 40_timebus.md R129). -/
def deviceDrives (s : State) (d : Byte) : Byte :=
  match s.rtcSel with
  | .addressedR => rtcRead s s.rtcPtr
  | .none => d
  | .addressedWFirst => d
  | .addressedW => d

/-- One second more, as hours, minutes, seconds (20_memory.md R70). -/
def nextSecond (h m s : Nat) : Nat × Nat × Nat :=
  if s + 1 = 60 then
    if m + 1 = 60 then
      if h + 1 = 24 then (0, 0, 0) else (h + 1, 0, 0)
    else (h, m + 1, 0)
  else (h, m, s + 1)

/-- The three time registers hold valid bytes (00_scope.md R16). -/
def rtcTimeValid (s : State) : Bool :=
  validSixty (rtcRead s Config.regSec) && validSixty (rtcRead s Config.regMin) && validHours (rtcRead s Config.regHrs)

/-- The time registers set from decimal hours, minutes, seconds (20_memory.md R70, 30_encoding.md R97). -/
def rtcSetTime (h m sec : Byte) (s : State) : State :=
  rtcWrite Config.regHrs (dec2bcd h) (rtcWrite Config.regMin (dec2bcd m) (rtcWrite Config.regSec (dec2bcd sec) s))

/-- The device's own tick, possible while its time is valid; the three registers change together (20_memory.md R70).
DESIGN CHOICE, log 25: at midnight the date registers keep their bytes; R70 says they change too and gives no address or value. -/
def rtcTick (s : State) : State :=
  if rtcTimeValid s then
    let t := nextSecond (bcd2dec (rtcRead s Config.regHrs)).toNat (bcd2dec (rtcRead s Config.regMin)).toNat
      (bcd2dec (rtcRead s Config.regSec)).toNat
    rtcSetTime (BitVec.ofNat 8 t.1) (BitVec.ofNat 8 t.2.1) (BitVec.ofNat 8 t.2.2) s
  else s

/-! ### The bus (40_timebus.md) -/

/-- `emit(e)`: append to BusTrace (00_scope.md R12). -/
def emit (e : BusEvent) (s : State) : State := { s with trace := s.trace ++ [e] }

/-- Hand an operation to the bus engine (40_timebus.md R122). -/
def handOver (op : BusOp) (s : State) : State := { s with busop := op, opDone := false }

/-- `issue`: needs no operation in flight (40_timebus.md R122), and an active phase but for a START (R121, R131). -/
def issue (c : BusCmd) (s : State) : Except Refusal State :=
  if s.busop = .none then
    match c with
    | .start => .ok (handOver .start s)
    | .write a => if s.phase = .active then .ok (handOver (.write (byteArg a s)) s) else .error .phaseIdle
    | .read => if s.phase = .active then .ok (handOver .read s) else .error .phaseIdle
  else .error .busBusy

/-- STOP: immediate, legal only in an active phase; the device sees it too (40_timebus.md R127, R131). -/
def stopBus (s : State) : Except Refusal State :=
  if s.phase = .active then .ok (deviceFrame (emit .stop { s with phase := .idle })) else .error .phaseIdle

/-- The operation in flight is complete: `BUSOP <- none`, `DONE <- 1` (40_timebus.md R124). -/
def finishBusOp (s : State) : State := { s with busop := .none, opDone := true }

/-- Completion of a START (40_timebus.md R124). -/
def completeStart (ans : BusAnswer) (s : State) : State :=
  let s := finishBusOp (emit .start { s with phase := .active })
  match ans with
  | .device _ _ => deviceFrame s
  | .undriven _ _ => s

/-- Completion of a sent byte; the acknowledge is recorded and has no other effect (40_timebus.md R124, R130). -/
def completeWrite (b : Byte) (ans : BusAnswer) (s : State) : State :=
  match ans with
  | .device ack _ =>
    finishBusOp (emit (.wbyte b (if deviceAccepts b s then 0#1 else ack)) (deviceByte b s))
  | .undriven ack _ => finishBusOp (emit (.wbyte b ack) s)

/-- A received byte goes to RX and the trace, answered NACK (40_timebus.md R124). -/
def receive (d : Byte) (s : State) : State := finishBusOp (emit (.rbyte d Config.rdAck) { s with rx := d })

/-- Completion of a received byte (40_timebus.md R124). -/
def completeRead (ans : BusAnswer) (s : State) : State :=
  match ans with
  | .device _ d => receive (deviceDrives s d) s
  | .undriven _ d => receive d s

/-- The one step of the bus engine; nothing while no operation is in flight or the environment answers none (40_timebus.md R124, R125). -/
def completeBusOp (ans : BusAnswer) (s : State) : State :=
  if s.responding then
    match s.busop with
    | .none => s
    | .start => completeStart ans s
    | .write b => completeWrite b ans s
    | .read => completeRead ans s
  else s

/-! ### The display (43_displaydriver.md) -/

/-- `DIG[t] <- v` (43_displaydriver.md R181). -/
def storeDigit (t : Fin 4) (v : Nibble) (s : State) : State := { s with dig := s.dig.set t v }

/-- Drive the lines of one tube from its digit value, bit 0 first (43_displaydriver.md R182). -/
def driveTube (m : Quad (Fin 4)) (v : Nibble) (old : Quad Bool) : Quad Bool :=
  (((old.set (m.get 0) (v.getLsbD 0)).set (m.get 1) (v.getLsbD 1)).set (m.get 2) (v.getLsbD 2)).set (m.get 3) (v.getLsbD 3)

/-- REFRESH: all sixteen lines at once (43_displaydriver.md R182). -/
def driveLines (s : State) : State :=
  { s with lines := Quad.tabulate fun t => driveTube (s.par.tubeMap.get t) (s.dig.get t) (s.lines.get t) }

/-- The backlight line (43_displaydriver.md R187 to R189). -/
def setBacklight (on : Bool) (s : State) : State := { s with bl := on }

/-! ### Registers of the mode controller (44_modecontroller.md) -/

/-- A time register takes the byte last received (41_rtcdevice.md R144). -/
def loadTime (r : TimeReg) (s : State) : State :=
  match r with
  | .tsec => { s with tsec := s.rx }
  | .tmin => { s with tmin := s.rx }
  | .thrs => { s with thrs := s.rx }

/-- The transition into SettingsMode Hours: seed, clear CHG, MODE 1, one micro-step (44_modecontroller.md R201 C4, R213). -/
def seedWorking (s : State) : State :=
  { s with wh := bcd2dec s.thrs, wm := bcd2dec s.tmin, chg := false, mode := 1#2 }

/-- WH one more, wrapping above 23 (44_modecontroller.md R202). -/
def incHours (s : State) : State := { s with wh := wrapInc Config.hrsMax s.wh }

/-- WM one more, wrapping above 59 (44_modecontroller.md R203). -/
def incMinutes (s : State) : State := { s with wm := wrapInc Config.minMax s.wm }

/-- `MODE <- m` (44_modecontroller.md R215). -/
def storeMode (m : BitVec 2) (s : State) : State := { s with mode := m }

/-! ### The main context (10_state.md R30 to R32) -/

/-- A register action of the main context. -/
def performAction (a : Action) (s : State) : Except Refusal State :=
  match a with
  | .issue c => issue c s
  | .stop => stopBus s
  | .loadTime r => .ok (loadTime r s)
  | .tstSp => .ok (testShort s)
  | .clrSp => .ok (clearShort s)
  | .tstLp => .ok (testLong s)
  | .clrLp => .ok (clearLong s)
  | .setDig t v =>
    match digArg v s with
    | .ok d => .ok (storeDigit t d s)
    | .error r => .error r
  | .refresh => .ok (driveLines s)
  | .blOn => .ok (setBacklight true s)
  | .blOff => .ok (setBacklight false s)
  | .blToggle => .ok (setBacklight (!s.bl) s)
  | .seed => .ok (seedWorking s)
  | .incWh => .ok (incHours s)
  | .incWm => .ok (incMinutes s)
  | .markChanged => .ok (markChanged s)
  | .toMinutes => .ok (storeMode 2#2 s)
  | .toClock => .ok (storeMode 0#2 s)

/-- The operation at `pc` is over: `pc <- pc + 1`, back to 0 at the end of a looping PROGRAM (10_state.md R30). -/
def advancePc (s : State) : State :=
  if s.pc + 1 = s.par.program.length ∧ s.par.loops = true then { s with pc := 0, cont := [] }
  else { s with pc := s.pc + 1, cont := [] }

/-- Go on with the pending micro-steps; when there is none left the operation is over (10_state.md R31). -/
def goOn (rest : List MicroStep) (s : State) : State :=
  match rest with
  | [] => advancePc s
  | _ :: _ => { s with cont := rest }

/-- One micro-step with the micro-steps that follow it. A blocked `await` leaves everything as it is: the main
context has no step (10_state.md R31, 40_timebus.md R123). -/
def runMicro (m : MicroStep) (rest : List MicroStep) (s : State) : Host.Outcome State Fault Refusal :=
  match m with
  | .act a =>
    match performAction a s with
    | .ok s' => .next (goOn rest s')
    | .error r => .refused r
  | .await => if s.opDone then .next (goOn rest { s with opDone := false }) else .next s
  | .ifSet c b => .next (goOn ((if condHolds c s then blockSteps b else []) ++ rest) s)

/-- Begin an operation: its expansion becomes the pending micro-steps and the first of them is performed; fetching
and expanding has no effect of its own and may be merged with it (10_state.md R31). -/
def enter (ms : List MicroStep) (s : State) : Host.Outcome State Fault Refusal :=
  match ms with
  | [] => .next (advancePc s)
  | m :: rest => runMicro m rest s

/-! ### The tick interrupt: taking it and returning from it (60_exceptions.md R232, R236, R237) -/

/-- Taking the tick: nothing is saved, the handler is the one atomic sample of the button, and returning restores
nothing, because nothing was saved; the main context is as it was (60_exceptions.md R236, R237). -/
def takeTick (level : Level) (s : State) : State := sampleButton level s

/-! ### Reset (10_state.md R48, R51, 70_reset_and_hazards.md R261, R263) -/

/-- RESET: every register of CORE at its reset value, the operation in flight dropped. The device keeps its registers
and pointer and is left with the selector the environment chose; parameters and pending moves are not registers. -/
def resetCore (sel : RtcSel) (s : State) : State :=
  { State.reset with
    par := s.par
    lines := Quad.tabulate fun t => lineImage (s.par.tubeMap.get t) Config.blank
    rtcMem := s.rtcMem
    rtcPtr := s.rtcPtr
    rtcSel := sel
    responding := s.responding
    inputs := s.inputs
    draws := s.draws }

end Sys2Proof.Machine
end

