-- ==== Sys2Proof/Machine/DisplayDriver.lean ====
section
/-! DEFINITION. DisplayDriver: SETDIG, REFRESH, DISPL, DISPR, BLON, BLOFF, BLTOG (43_displaydriver.md). -/

namespace Sys2Proof.Machine

/-- SETDIG (43_displaydriver.md R181). -/
def execSetdig (t : Fin 4) (v : Nibble) (s : State) : Host.Outcome State Fault Refusal :=
  enter [.act (.setDig t (.lit v))] s

/-- REFRESH (43_displaydriver.md R182). -/
def execRefresh (s : State) : Host.Outcome State Fault Refusal := enter [.act .refresh] s

/-- DISPL (43_displaydriver.md R184). -/
def execDispl (n : BitVec 7) (s : State) : Host.Outcome State Fault Refusal :=
  enter (displayLeftSteps (.lit (n.setWidth 8))) s

/-- DISPR (43_displaydriver.md R185). -/
def execDispr (n : BitVec 7) (s : State) : Host.Outcome State Fault Refusal :=
  enter (displayRightSteps (.lit (n.setWidth 8))) s

/-- BLON (43_displaydriver.md R187). -/
def execBlon (s : State) : Host.Outcome State Fault Refusal := enter [.act .blOn] s

/-- BLOFF (43_displaydriver.md R188). -/
def execBloff (s : State) : Host.Outcome State Fault Refusal := enter [.act .blOff] s

/-- BLTOG (43_displaydriver.md R189). -/
def execBltog (s : State) : Host.Outcome State Fault Refusal := enter [.act .blToggle] s

end Sys2Proof.Machine
end

