-- ==== Sys2Proof/Machine/InputDebouncer.lean ====
section
/-! DEFINITION. InputDebouncer: TICK and the consumer's four flag operations (42_inputdebouncer.md). -/

namespace Sys2Proof.Machine

/-- TICK met in PROGRAM: a step of the tick context at that point of the schedule (30_encoding.md R94 (e), R97). -/
def execTick (level : Level) (s : State) : Host.Outcome State Fault Refusal := .next (advancePc (takeTick level s))

/-- TSTSP (42_inputdebouncer.md R165). -/
def execTstsp (s : State) : Host.Outcome State Fault Refusal := enter [.act .tstSp] s

/-- CLRSP (42_inputdebouncer.md R166). -/
def execClrsp (s : State) : Host.Outcome State Fault Refusal := enter [.act .clrSp] s

/-- TSTLP (42_inputdebouncer.md R167). -/
def execTstlp (s : State) : Host.Outcome State Fault Refusal := enter [.act .tstLp] s

/-- CLRLP (42_inputdebouncer.md R168). -/
def execClrlp (s : State) : Host.Outcome State Fault Refusal := enter [.act .clrLp] s

end Sys2Proof.Machine
end

