-- ==== Sys2Proof/Machine/ModeController.lean ====
section
/-! DEFINITION. ModeController: MODESTEP (44_modecontroller.md). -/

namespace Sys2Proof.Machine

/-- MODESTEP: MODE at the fetch selects one body; 3 is refused (44_modecontroller.md R200). -/
def execModestep (s : State) : Host.Outcome State Fault Refusal :=
  match s.mode with
  | 0#2 => enter clockBody s
  | 1#2 => enter (hoursBody s.par.blankPush) s
  | 2#2 => enter (minutesBody s.par.blankPush) s
  | 3#2 => .refused .modeUnused

end Sys2Proof.Machine
end

