-- ==== Sys2Proof/Machine/RtcDevice.lean ====
section
/-! DEFINITION. RtcDevice: RDREG, WRREG, RDTIME, WRTIME (41_rtcdevice.md), composites over TimeBus. -/

namespace Sys2Proof.Machine

/-- RDREG (41_rtcdevice.md R140). -/
def execRdreg (a : Byte) (s : State) : Host.Outcome State Fault Refusal := enter (readRegSteps (.lit a)) s

/-- WRREG (41_rtcdevice.md R142). -/
def execWrreg (a b : Byte) (s : State) : Host.Outcome State Fault Refusal := enter (writeRegSteps (.lit a) (.lit b)) s

/-- RDTIME (41_rtcdevice.md R144). -/
def execRdtime (s : State) : Host.Outcome State Fault Refusal := enter readTimeSteps s

/-- WRTIME: hours, minutes, seconds in decimal, written in the order seconds, minutes, hours (41_rtcdevice.md R146). -/
def execWrtime (a b c : Byte) (s : State) : Host.Outcome State Fault Refusal :=
  enter (writeTimeSteps (.lit a) (.lit b) (.lit c)) s

end Sys2Proof.Machine
end

