-- ==== Sys2Proof/Machine/TimeBus.lean ====
section
/-! DEFINITION. TimeBus: START, STOP, WRBYTE, RDBYTE (40_timebus.md). -/

namespace Sys2Proof.Machine

/-- START (40_timebus.md R126): the issue; its await is pending. -/
def execStart (s : State) : Host.Outcome State Fault Refusal := enter startSteps s

/-- STOP (40_timebus.md R127). -/
def execStop (s : State) : Host.Outcome State Fault Refusal := enter stopSteps s

/-- WRBYTE (40_timebus.md R128). -/
def execWrbyte (a : Byte) (s : State) : Host.Outcome State Fault Refusal := enter (sendSteps (.lit a)) s

/-- RDBYTE (40_timebus.md R129). -/
def execRdbyte (s : State) : Host.Outcome State Fault Refusal := enter receiveSteps s

end Sys2Proof.Machine
end

