-- ==== Sys2Proof/Machine/Dispatch.lean ====
section
/-! DEFINITION. exec: one arm per operation, in the order of spec/opcode_table.json. -/

namespace Sys2Proof.Machine

def exec (i : Instr) (s : State) : Host.Outcome State Fault Refusal :=
  match i with
  | .start => Sys2Proof.Machine.execStart s
  | .stop => Sys2Proof.Machine.execStop s
  | .wrbyte a => Sys2Proof.Machine.execWrbyte a s
  | .rdbyte => Sys2Proof.Machine.execRdbyte s
  | .rdreg a => Sys2Proof.Machine.execRdreg a s
  | .wrreg a b => Sys2Proof.Machine.execWrreg a b s
  | .rdtime => Sys2Proof.Machine.execRdtime s
  | .wrtime a b c => Sys2Proof.Machine.execWrtime a b c s
  | .tick level => Sys2Proof.Machine.execTick level s
  | .tstsp => Sys2Proof.Machine.execTstsp s
  | .clrsp => Sys2Proof.Machine.execClrsp s
  | .tstlp => Sys2Proof.Machine.execTstlp s
  | .clrlp => Sys2Proof.Machine.execClrlp s
  | .setdig t v => Sys2Proof.Machine.execSetdig t v s
  | .refresh => Sys2Proof.Machine.execRefresh s
  | .displ n => Sys2Proof.Machine.execDispl n s
  | .dispr n => Sys2Proof.Machine.execDispr n s
  | .blon => Sys2Proof.Machine.execBlon s
  | .bloff => Sys2Proof.Machine.execBloff s
  | .bltog => Sys2Proof.Machine.execBltog s
  | .modestep => Sys2Proof.Machine.execModestep s

end Sys2Proof.Machine
end

