-- ==== Sys2Proof/Machine/Agents.lean ====
section
/-! DEFINITION. The agents' moves (00_scope.md R9): fetching and running the main context, and one move of any agent. -/

namespace Sys2Proof.Machine

/-- The refusal of a word that is no operation (30_encoding.md R94). -/
def decodeRefusal (w : OpWord) (e : DecodeError) : Refusal :=
  match e with
  | .illegalOp => .illegalWord w
  | .reservedBits => .reservedWord w
  | .reservedOperand => .reservedOperand w

/-- The word at `pc`; none when the main context has finished (10_state.md R30, R33). -/
def fetchWord (s : State) : Option OpWord := s.par.program[s.pc]?

/-- Fetch, decode and begin the operation at `pc`; a finished main context has no step (10_state.md R31, R33). -/
def fetchStep (s : State) : Host.Outcome State Fault Refusal :=
  match fetchWord s with
  | none => .next s
  | some w =>
    match decode w with
    | .ok i => exec i s
    | .error e => .refused (decodeRefusal w e)

/-- One step of the main context (10_state.md R31). -/
def mainStep (s : State) : Host.Outcome State Fault Refusal :=
  match s.cont with
  | [] => fetchStep s
  | m :: rest => runMicro m rest s

/-- One move of one agent. A move that is not enabled changes nothing (00_scope.md R9). -/
def makeMove (m : Move) (s : State) : Host.Outcome State Fault Refusal :=
  match m with
  | .main => mainStep s
  | .tick level => .next (takeTick level s)
  | .complete ans => .next (completeBusOp ans s)
  | .rtcTick => .next (rtcTick s)
  | .rtcSet h mi sec => .next (rtcSetTime h mi sec s)
  | .noResp => .next { s with responding := false }
  | .reset sel => .next (resetCore sel s)

/-- The next move: the first pending input, or a free choice when there is none (00_scope.md R8). -/
def nextMove (s : State) : Move :=
  match s.inputs with
  | [] => Config.freeMove s.draws
  | m :: _ => m

/-- The state once that choice is used up. -/
def dropMove (s : State) : State :=
  match s.inputs with
  | [] => { s with draws := s.draws + 1 }
  | _ :: rest => { s with inputs := rest }

/-- The environment's list of moves, one after another, until one is refused. -/
def runMoves (ms : List Move) (s : State) : Host.Outcome State Fault Refusal :=
  match ms with
  | [] => .next s
  | m :: rest =>
    match makeMove m s with
    | .next s' => runMoves rest s'
    | .fault f => .fault f
    | .refused r => .refused r

/-- `s` with the word `w` as the operation at `pc`, the main context about to fetch it, and its move the next one. -/
def placeWord (w : OpWord) (s : State) : State :=
  let at_ := min s.pc s.par.program.length
  { s with
    par := { s.par with program := s.par.program.take at_ ++ w :: s.par.program.drop (at_ + 1) }
    pc := at_
    cont := []
    inputs := .main :: s.inputs }

end Sys2Proof.Machine
end

