-- ==== Sys2Proof/Machine/Step.lean ====
section
/-! DEFINITION. One step of the whole machine, and placing a word where the main context fetches next. -/

namespace Sys2Proof.Machine

/-- One step: one atomic event of 00_scope.md R9, whose agent and draws the next move names. -/
def step (s : State) : Host.Outcome State Fault Refusal := makeMove (nextMove s) (dropMove s)

/-- `s` with an operation of `nbits` bits placed where `step` fetches next: in PROGRAM at `pc`, nothing pending in the
main context, and the main context's move next. A word is 32 bits (30_encoding.md R90). -/
def State.withFetchWord (s : State) (nbits w : Nat) : State :=
  placeWord (BitVec.ofNat 32 (w % 2 ^ nbits)) s

end Sys2Proof.Machine
end

