-- ==== Sys2Proof/Machine/Script.lean ====
section
/-! DEFINITION. The script language: assembler text, pseudo-instructions, directives, and the one schedule a script
fixes (30_encoding.md R97, R98). -/

namespace Sys2Proof.Machine

/-- A script line (30_encoding.md R97, R98). -/
inductive ScriptLine where
  | op (i : Instr)
  | press (k : Nat)
  | release
  | idle (k : Nat)
  | click (k : Nat)
  | blankt (t : Fin 4)
  | rtcSet (hours minutes seconds : Byte)
  | rtcTick
  | noResp
deriving DecidableEq, Repr

/-- What a line stands for: one operation of the main context, or one move of another agent. -/
inductive ScriptEvent where
  | op (i : Instr)
  | move (m : Move)
deriving DecidableEq, Repr

/-- A TICK line is a step of the tick context at that point; every other operation is the main context's (30_encoding.md R97). -/
def opEvent (i : Instr) : ScriptEvent :=
  match i with
  | .tick level => .move (.tick level)
  | j => .op j

/-- The expansion of a line (30_encoding.md R97, R98). -/
def lineEvents (l : ScriptLine) : List ScriptEvent :=
  match l with
  | .op i => [opEvent i]
  | .press k => List.replicate k (.move (.tick .pressed))
  | .release => [.move (.tick .released)]
  | .idle k => List.replicate k (.move (.tick .released))
  | .click k => List.replicate k (.move (.tick .pressed)) ++ [.move (.tick .released)]
  | .blankt t => [.op (.setdig t Config.blank)]
  | .rtcSet h m s => [.move (.rtcSet h m s)]
  | .rtcTick => [.move .rtcTick]
  | .noResp => [.move .noResp]

/-- PROGRAM of a script: its operations in order (00_scope.md R6, D21). -/
def scriptProgram (es : List ScriptEvent) : List OpWord :=
  es.filterMap fun e =>
    match e with
    | .op i => some (encode i)
    | .move _ => none

/-- Run the operation in progress to its end, the bus engine completing each operation at once (30_encoding.md R97).
A blocked main context stays as it is. -/
def finishOp (fuel : Nat) (ans : BusAnswer) (s : State) : Host.Outcome State Fault Refusal :=
  match fuel with
  | 0 => .next s
  | k + 1 =>
    if s.cont = [] then .next s
    else
      match mainStep (completeBusOp ans s) with
      | .next s' => finishOp k ans s'
      | .fault f => .fault f
      | .refused r => .refused r

/-- More micro-steps than any operation has. -/
def opFuel : Nat := 200

/-- One event of a script. -/
def runEvent (ans : BusAnswer) (e : ScriptEvent) (s : State) : Host.Outcome State Fault Refusal :=
  match e with
  | .move m => makeMove m s
  | .op _ =>
    match mainStep s with
    | .next s' => finishOp opFuel ans s'
    | .fault f => .fault f
    | .refused r => .refused r

/-- The events of a script in order. -/
def runEvents (ans : BusAnswer) (es : List ScriptEvent) (s : State) : Host.Outcome State Fault Refusal :=
  match es with
  | [] => .next s
  | e :: rest =>
    match runEvent ans e s with
    | .next s' => runEvents ans rest s'
    | .fault f => .fault f
    | .refused r => .refused r

/-- A script run from `s`: its operations are PROGRAM, not looping, from the first (30_encoding.md R97, 10_state.md R33).
`ans` answers the bytes the device does not determine. -/
def runScript (ans : BusAnswer) (ls : List ScriptLine) (s : State) : Host.Outcome State Fault Refusal :=
  let es := ls.flatMap lineEvents
  runEvents ans es
    { s with par := { s.par with program := scriptProgram es, loops := false }, pc := 0, cont := [] }

/-! ### Text (30_encoding.md R97) -/

/-- A digit of base 10 or 16. -/
def digitValue (base : Nat) (c : Char) : Option Nat :=
  let n := c.toNat
  let v := if 48 ≤ n ∧ n ≤ 57 then n - 48 else if 65 ≤ n ∧ n ≤ 70 then n - 55 else if 97 ≤ n ∧ n ≤ 102 then n - 87 else 16
  if v < base then some v else none

/-- The digits of a number, most significant first. -/
def readDigits (base : Nat) (acc : Nat) (cs : List Char) : Option Nat :=
  match cs with
  | [] => some acc
  | c :: rest =>
    match digitValue base c with
    | some v => readDigits base (acc * base + v) rest
    | none => none

/-- A number, decimal or hexadecimal with `0x`, or a symbol of 00_scope.md R6. -/
def readOperand (p : Params) (tok : List Char) : Option Nat :=
  match tok with
  | [] => none
  | ['S', 'L', 'A', '_', 'W'] => some p.slaW.toNat
  | ['S', 'L', 'A', '_', 'R'] => some p.slaR.toNat
  | ['R', 'E', 'G', '_', 'S', 'E', 'C'] => some Config.regSec.toNat
  | ['R', 'E', 'G', '_', 'M', 'I', 'N'] => some Config.regMin.toNat
  | ['R', 'E', 'G', '_', 'H', 'R', 'S'] => some Config.regHrs.toNat
  | ['B', 'L', 'A', 'N', 'K'] => some Config.blank.toNat
  | '0' :: 'x' :: c :: rest => readDigits 16 0 (c :: rest)
  | c :: rest => readDigits 10 0 (c :: rest)

/-- A byte operand. -/
def byteOperand (n : Nat) : Option Byte := if n < 256 then some (BitVec.ofNat 8 n) else none

/-- The operation of a mnemonic with its operands in the order of the word; none when an operand does not fit its field
(30_encoding.md R92). A display operand of 100..127 fits: its word is reserved and is refused where it is fetched (R94 (c)). -/
def assembleOp (mnemonic : String) (ops : List Nat) : Option Instr :=
  match mnemonic, ops with
  | "START", [] => some .start
  | "STOP", [] => some .stop
  | "WRBYTE", [a] => (byteOperand a).map .wrbyte
  | "RDBYTE", [] => some .rdbyte
  | "RDREG", [a] => (byteOperand a).map .rdreg
  | "WRREG", [a, b] => (byteOperand a).bind fun x => (byteOperand b).map fun y => .wrreg x y
  | "RDTIME", [] => some .rdtime
  | "WRTIME", [a, b, c] =>
    (byteOperand a).bind fun x => (byteOperand b).bind fun y => (byteOperand c).map fun z => .wrtime x y z
  | "TICK", [0] => some (.tick .pressed)
  | "TICK", [1] => some (.tick .released)
  | "TSTSP", [] => some .tstsp
  | "CLRSP", [] => some .clrsp
  | "TSTLP", [] => some .tstlp
  | "CLRLP", [] => some .clrlp
  | "SETDIG", [t, v] => if h : t < 4 then (if v < 16 then some (.setdig ⟨t, h⟩ (BitVec.ofNat 4 v)) else none) else none
  | "REFRESH", [] => some .refresh
  | "DISPL", [n] => if n < 128 then some (.displ (BitVec.ofNat 7 n)) else none
  | "DISPR", [n] => if n < 128 then some (.dispr (BitVec.ofNat 7 n)) else none
  | "BLON", [] => some .blon
  | "BLOFF", [] => some .bloff
  | "BLTOG", [] => some .bltog
  | "MODESTEP", [] => some .modestep
  | _, _ => none

/-- A line from its mnemonic, pseudo-instruction or directive and its operands. -/
def assembleLine (word : String) (ops : List Nat) : Option ScriptLine :=
  match word, ops with
  | "PRESS", [k] => some (.press k)
  | "RELEASE", [] => some .release
  | "IDLE", [k] => some (.idle k)
  | "CLICK", [k] => some (.click k)
  | "BLANKT", [t] => if h : t < 4 then some (.blankt ⟨t, h⟩) else none
  | ".rtc_set", [h, m, s] =>
    (byteOperand h).bind fun x => (byteOperand m).bind fun y => (byteOperand s).map fun z => .rtcSet x y z
  | ".rtc_tick", [] => some .rtcTick
  | ".noresp", [] => some .noResp
  | w, os => (assembleOp w os).map .op

/-- A blank of a line. -/
def isBlank (c : Char) : Bool := c == ' ' || c == '\t' || c == '\r'

/-- A text without the blanks around it. -/
def trimBlanks (cs : List Char) : List Char := ((cs.dropWhile isBlank).reverse.dropWhile isBlank).reverse

/-- What separates the operands of a word: the colons of `hh:mm:ss` for `.rtc_set`, commas for every other. -/
def operandSeparator (word : List Char) : Char := if word = ".rtc_set".toList then ':' else ','

/-- The pieces of a text between separating characters, in order; `cur` is the piece being read, last character first. -/
def splitText (sep : Char → Bool) (cur : List Char) (cs : List Char) : List (List Char) :=
  match cs with
  | [] => [cur.reverse]
  | c :: rest => if sep c then cur.reverse :: splitText sep [] rest else splitText sep (c :: cur) rest

/-- A text without its comments; `inside` is true within one. DESIGN CHOICE, log 21: a comment runs to the next line break, and
a `;` inside it separates nothing; the spec says only that `#` starts a comment (30_encoding.md R97). -/
def dropComments (inside : Bool) (cs : List Char) : List Char :=
  match cs with
  | [] => []
  | c :: rest =>
    if c = '\n' then c :: dropComments false rest
    else if inside then dropComments true rest
    else if c = '#' then dropComments true rest
    else c :: dropComments false rest

/-- The operands of a line, each without the blanks around it; no text, no operand. -/
def operandTexts (sep : Char) (cs : List Char) : List (List Char) :=
  match trimBlanks cs with
  | [] => []
  | c :: rest => (splitText (fun x => x == sep) [] (c :: rest)).map trimBlanks

/-- One line of a script: its first word, then its operands (30_encoding.md R97); a blank line is no line. -/
def readLine (p : Params) (cs : List Char) : Option (List ScriptLine) :=
  match trimBlanks cs with
  | [] => some []
  | c :: rest =>
    let word := (c :: rest).takeWhile (fun x => !isBlank x)
    let ops := operandTexts (operandSeparator word) ((c :: rest).dropWhile (fun x => !isBlank x))
    ((ops.mapM (readOperand p)).bind (assembleLine (String.ofList word))).map fun l => [l]

/-- A script's text: lines end at a line break or at `;` (30_encoding.md R97). -/
def readScript (p : Params) (text : List Char) : Option (List ScriptLine) :=
  ((splitText (fun c => c == '\n' || c == ';') [] (dropComments false text)).mapM (readLine p)).map List.flatten

end Sys2Proof.Machine
end

