-- ==== Sys2Proof/Safety.lean ====
section
/-! DEFINITION. The terms claims use: what a legal instance, a blocked and a finished main context are, the invariants of
the machine and of the hardwired program, and the schedules and premises of progress. -/

namespace Sys2Proof.Machine

/-! ### The instance (00_scope.md R6) -/

/-- The four images of one tube's wiring differ: `TUBE_MAP[t]` is a bijection (43_displaydriver.md R183). -/
def tubeWf (m : Quad (Fin 4)) : Bool :=
  m.t0 != m.t1 && m.t0 != m.t2 && m.t0 != m.t3 && m.t1 != m.t2 && m.t1 != m.t3 && m.t2 != m.t3

/-- A legal instance: `SLA_R != SLA_W`, every tube's map a bijection (00_scope.md R6). -/
def Params.wf (p : Params) : Bool :=
  p.slaR != p.slaW && tubeWf p.tubeMap.t0 && tubeWf p.tubeMap.t1 && tubeWf p.tubeMap.t2 && tubeWf p.tubeMap.t3

/-! ### The state of the main context -/

/-- The main context has finished: `pc` is past PROGRAM and nothing is pending (10_state.md R30, R33). -/
def mainFinished (s : State) : Bool := s.cont == [] && decide (s.par.program.length ≤ s.pc)

/-- The run of a finite PROGRAM has ended (10_state.md R33). -/
def runEnded (s : State) : Bool := mainFinished s && s.busop == .none

/-- The main context is blocked in a busy-wait (40_timebus.md R123). -/
def mainBlocked (s : State) : Bool := s.cont.head? == some .await && !s.opDone

/-- ValidRtc: the device's three time registers hold valid bytes (00_scope.md R16). -/
def validRtc (s : State) : Bool := rtcTimeValid s

/-! ### The invariant of the machine, for every PROGRAM -/

/-- Every `issue` is followed by its `await`, and no `await` stands elsewhere (40_timebus.md R122). -/
def pairedSteps (ms : List MicroStep) : Bool :=
  match ms with
  | [] => true
  | .await :: _ => false
  | .ifSet _ _ :: rest => pairedSteps rest
  | .act (.issue _) :: .await :: rest => pairedSteps rest
  | .act (.issue _) :: _ => false
  | .act _ :: rest => pairedSteps rest

/-- An operation is in flight, or completed and not yet awaited, exactly while the main context stands at its `await` (40_timebus.md R122 to R124). -/
def busConsistent (s : State) : Bool :=
  match s.cont with
  | .await :: rest => pairedSteps rest && (if s.opDone then s.busop == .none else s.busop != .none)
  | ms => pairedSteps ms && s.busop == .none && !s.opDone

/-- The invariant: canonical memory, `HOLD <= 100` (42_inputdebouncer.md R162), MODE never 3 (10_state.md R40), and the
bus state in step with the main context (40_timebus.md R122 to R124). -/
def MachineInv (s : State) : Prop :=
  s.rtcMem.wf = true ∧ s.hold.toNat ≤ 100 ∧ s.mode ≠ 3#2 ∧ busConsistent s = true

/-! ### The invariant of the hardwired program (10_state.md R30) -/

/-- The phase the bus has after these micro-steps, starting in `p`; none if one of them is misuse (40_timebus.md R121, R131). -/
def phaseAfter (p : Phase) (ms : List MicroStep) : Option Phase :=
  match ms with
  | [] => some p
  | .await :: rest => phaseAfter p rest
  | .ifSet _ _ :: rest => if p = .idle then phaseAfter .idle rest else none
  | .act (.issue .start) :: rest => phaseAfter .active rest
  | .act (.issue (.write _)) :: rest => if p = .active then phaseAfter .active rest else none
  | .act (.issue .read) :: rest => if p = .active then phaseAfter .active rest else none
  | .act .stop :: rest => if p = .active then phaseAfter .idle rest else none
  | .act _ :: rest => phaseAfter p rest

/-- The phase once the operation in flight has completed. -/
def settledPhase (s : State) : Phase := if s.busop = .start then .active else s.phase

/-- Whether a micro-step can be one of the hardwired program: its displays show working registers, not operands of a word. -/
def hardwiredStep (m : MicroStep) : Bool :=
  match m with
  | .act (.setDig _ (.tens (.lit _))) => false
  | .act (.setDig _ (.units (.lit _))) => false
  | _ => true

/-- The real block's invariant: PROGRAM = [MODESTEP], looping, at 0; MODE legal; bus state and phase in step with what is
pending, and idle when nothing is (10_state.md R30, 40_timebus.md R121). -/
def HardwiredInv (s : State) : Prop :=
  s.par.program = [0x50000000#32] ∧ s.par.loops = true ∧ s.pc = 0 ∧ s.mode ≠ 3#2 ∧ busConsistent s = true ∧
  phaseAfter (settledPhase s) s.cont = some .idle ∧ s.cont.all hardwiredStep = true

/-- Every display operand the hardwired program can reach is in the domain of DISPL and DISPR (44_modecontroller.md R214). -/
def WorkingShowable (s : State) : Prop := s.wh.toNat ≤ 99 ∧ s.wm.toNat ≤ 99

/-- The ranges of the working values under ValidRtc (44_modecontroller.md R214). -/
def WorkingInRange (s : State) : Prop := s.wh.toNat ≤ 23 ∧ s.wm.toNat ≤ 59

/-- The time last read is valid, so a seed from it is in range (00_scope.md R16, 44_modecontroller.md R213). -/
def ReadTimeValid (s : State) : Prop := validHours s.thrs = true ∧ validSixty s.tmin = true

/-! ### Schedules -/

/-- The moves that carry a main context through these micro-steps when the engine completes each operation at once. -/
def responsiveMoves (ans : BusAnswer) (ms : List MicroStep) : List Move :=
  ms.flatMap fun m =>
    match m with
    | .await => [.complete ans, .main]
    | .act _ => [.main]
    | .ifSet _ _ => [.main]

/-- The schedule after `exec` has performed the first of these micro-steps. -/
def remainingMoves (ans : BusAnswer) (ms : List MicroStep) : List Move := responsiveMoves ans ms.tail

/-- The moves for the handling of one flag that reads `set`: test, conditional, and the block's two or three actions. -/
def pressMoves (set : Bool) (actions : Nat) : List Move :=
  [.main, .main] ++ (if set then List.replicate actions .main else [])

/-- Whether a move is a tick of the button. -/
def isTick (m : Move) : Bool :=
  match m with
  | .tick _ => true
  | _ => false

/-- Whether a move is a completion by the bus engine. -/
def isCompletion (m : Move) : Bool :=
  match m with
  | .complete _ => true
  | _ => false

/-- Whether a move is RESET. -/
def isReset (m : Move) : Bool :=
  match m with
  | .reset _ => true
  | _ => false

/-- The first `n` moves of an infinite schedule. -/
def firstMoves (sched : Nat → Move) (n : Nat) : List Move := (List.range n).map sched

/-- Weak fairness of the main context (60_exceptions.md R246 (a)): it is scheduled again and again. -/
def MainFair (sched : Nat → Move) : Prop := ∀ n, ∃ k, n ≤ k ∧ sched k = .main

/-- BusResponsive (40_timebus.md R125, 60_exceptions.md R246 (b)): in the run of this schedule from `s` every operation in
flight is eventually completed, by a completion while the environment still answers, or is dropped by a reset. -/
def BusResponsive (sched : Nat → Move) (s : State) : Prop :=
  ∀ n u, runMoves (firstMoves sched n) s = .next u → u.busop ≠ .none →
    ∃ k t, n ≤ k ∧ runMoves (firstMoves sched k) s = .next t ∧
      (isReset (sched k) = true ∨ (isCompletion (sched k) = true ∧ t.busop = u.busop ∧ t.responding = true))

/-- Ticks keep coming (60_exceptions.md R246 (c)). -/
def TicksKeepComing (sched : Nat → Move) : Prop := ∀ n, ∃ k, n ≤ k ∧ isTick (sched k) = true

/-! ### The display -/

/-- The sixteen lines that show these digits on this instance (43_displaydriver.md R182). -/
def linesOf (p : Params) (dig : Quad Nibble) : Quad (Quad Bool) :=
  Quad.tabulate fun t => lineImage (p.tubeMap.get t) (dig.get t)

/-- The tens digit of a display operand (43_displaydriver.md R184). -/
def tensDigit (n : Nat) : Nibble := BitVec.ofNat 4 (n / 10)

/-- The units digit of a display operand (43_displaydriver.md R184). -/
def unitsDigit (n : Nat) : Nibble := BitVec.ofNat 4 (n % 10)

/-- The state of a SettingsMode Minutes iteration up to the commit: display, blanking, ShortPress (44_modecontroller.md R203). -/
def minutesShown (s : State) : State :=
  { s with
    dig := ⟨0xA#4, 0xA#4, tensDigit s.wm.toNat, unitsDigit s.wm.toNat⟩,
    lines := linesOf s.par (match s.par.blankPush with
      | .sameIteration => ⟨0xA#4, 0xA#4, tensDigit s.wm.toNat, unitsDigit s.wm.toNat⟩
      | .nextRefresh => ⟨s.dig.t0, s.dig.t1, tensDigit s.wm.toNat, unitsDigit s.wm.toNat⟩),
    latch := s.lp, sp := false, lp := false,
    wm := if s.sp then (if s.wm.toNat + 1 > 59 then 0#8 else s.wm + 1#8) else s.wm,
    chg := s.sp || s.chg }

/-! ### Bus events of the composites -/

/-- The seven events of a completed RDREG (41_rtcdevice.md R140), with the device acknowledging. -/
def readRegEvents (p : Params) (a d : Byte) : List BusEvent :=
  [.start, .wbyte p.slaW 0#1, .wbyte a 0#1, .start, .wbyte p.slaR 0#1, .rbyte d Config.rdAck, .stop]

/-- The five events of a completed WRREG (41_rtcdevice.md R142), with the device acknowledging. -/
def writeRegEvents (p : Params) (a b : Byte) : List BusEvent :=
  [.start, .wbyte p.slaW 0#1, .wbyte a 0#1, .wbyte b 0#1, .stop]

/-- The 21 events of a completed RDTIME (41_rtcdevice.md R144). -/
def readTimeEvents (p : Params) (sec mi hrs : Byte) : List BusEvent :=
  readRegEvents p Config.regSec sec ++ readRegEvents p Config.regMin mi ++ readRegEvents p Config.regHrs hrs

/-- The 15 events of a completed WRTIME (41_rtcdevice.md R146). -/
def writeTimeEvents (p : Params) (h m sec : Byte) : List BusEvent :=
  writeRegEvents p Config.regSec (dec2bcd sec) ++ writeRegEvents p Config.regMin (dec2bcd m) ++
  writeRegEvents p Config.regHrs (dec2bcd h)

end Sys2Proof.Machine
end

