-- ==== Sys2Proof/Certificates/Slice0/Obligations.lean ====
section
/-! DEFINITION. The statements of this row, for the provers. Each docstring names the rule of spec/ it formalises.
`runMoves` is the machine under a list of moves; O9 ties it to `step`. -/

open Sys2Proof Sys2Proof.Machine

/-! ### Encoding -/

/-- Decoding an encoded well-formed operation gives it back (30_encoding.md R90 to R93). -/
def Obligations.DecodeEncodeRoundTrip : Prop :=
  ∀ i : Instr, i.wellFormed = true → decode (encode i) = .ok i

/-- A word that decodes is the encoding of what it decodes to, and that is well formed: each word has one meaning (R90 to R94). -/
def Obligations.EncodeDecodeRoundTrip : Prop :=
  ∀ (w : OpWord) (i : Instr), decode w = .ok i → encode i = w ∧ i.wellFormed = true

/-- The decoder accepts exactly the words some row of the table selects, less the displays above 99 (R91, R94). -/
def Obligations.DecoderAcceptsExactlyTheTable : Prop :=
  ∀ w : OpWord, (∃ i, decode w = .ok i) ↔
    (∃ r ∈ opRows, r.selects w = true) ∧
    ¬ ((opField w = 0x42#8 ∨ opField w = 0x43#8) ∧ 99 < (displayField w).toNat)

/-- No word is selected by two rows of the table (R91, R93). -/
def Obligations.TableRowsDoNotOverlap : Prop :=
  ∀ (w : OpWord) (r r' : OpRow), r ∈ opRows → r' ∈ opRows → r.selects w = true → r'.selects w = true → r = r'

/-- Words of 95_test_vectors.md section 2.2, one or more of each family, and refused ones. -/
def Obligations.SampleWordsDecode : Prop :=
  decode 0x12D00000#32 = .ok (.wrbyte 0xD0#8) ∧
  decode 0x21015900#32 = .ok (.wrreg 0x01#8 0x59#8) ∧
  decode 0x23173B1E#32 = .ok (.wrtime 23#8 59#8 30#8) ∧
  decode 0x30010000#32 = .ok (.tick .released) ∧
  decode 0x40030900#32 = .ok (.setdig 3 9#4) ∧
  decode 0x42630000#32 = .ok (.displ 99#7) ∧
  decode 0x50000000#32 = .ok .modestep ∧
  decode 0x00000000#32 = .error .illegalOp ∧
  decode 0x40040000#32 = .error .reservedBits ∧
  decode 0x42640000#32 = .error .reservedOperand

/-! ### The step -/

/-- When it is the main context's move and nothing is pending, the step is `exec` of the operation the word at `pc`
decodes to; the step adds only that the move is used up (10_state.md R31). -/
def Obligations.StepRunsTheDecodedInstruction : Prop :=
  ∀ (s : State) (w : OpWord) (i : Instr) (rest : List Move),
    s.inputs = .main :: rest → s.cont = [] → s.par.program[s.pc]? = some w → decode w = .ok i →
    step s = exec i { s with inputs := rest }

/-- When it is the main context's move and micro-steps are pending, the step is the first of them (10_state.md R31). When the
last is done the pc advances by one, or to 0 at the end of a looping PROGRAM, and nothing else changes; no move but that and
reset writes the pc; a finished main context has no step (10_state.md R30, R33): its move leaves the state as it is, which is
the model's choice (log 3), as is that a pc beyond the end is finished too (log 17). -/
def Obligations.StepRunsThePendingMicroStep : Prop :=
  (∀ (s : State) (m : MicroStep) (more : List MicroStep) (rest : List Move),
    s.inputs = .main :: rest → s.cont = m :: more → step s = runMicro m more { s with inputs := rest }) ∧
  (∀ s : State, goOn [] s = advancePc s ∧ advancePc s =
    { s with pc := if s.pc + 1 = s.par.program.length ∧ s.par.loops = true then 0 else s.pc + 1, cont := [] }) ∧
  (∀ (s : State) (m : MicroStep) (more : List MicroStep), goOn (m :: more) s = { s with cont := m :: more }) ∧
  (∀ s : State, s.cont = [] → s.par.program.length ≤ s.pc → makeMove .main s = .next s) ∧
  (∀ (m : Move) (s s' : State), makeMove m s = .next s' →
    s'.pc = s.pc ∨
    (m = .main ∧ s'.cont = [] ∧
      s'.pc = if s.pc + 1 = s.par.program.length ∧ s.par.loops = true then 0 else s.pc + 1) ∨
    (isReset m = true ∧ s'.pc = 0))

/-- A word that is no operation has no step: the fetch refuses it, by the reason of the rule (30_encoding.md R94 (a) to (c)). -/
def Obligations.IllegalAndReservedWordsRefused : Prop :=
  ∀ (s : State) (w : OpWord), s.cont = [] → fetchWord s = some w →
    (opFormat (opField w) = none → makeMove .main s = .refused (.illegalWord w)) ∧
    (∀ f, opFormat (opField w) = some f → w &&& formatMask f ≠ opField w ++ 0#24 →
      makeMove .main s = .refused (.reservedWord w)) ∧
    (∀ f, opFormat (opField w) = some f → w &&& formatMask f = opField w ++ 0#24 →
      (opField w = 0x42#8 ∨ opField w = 0x43#8) → 99 < (displayField w).toNat →
      makeMove .main s = .refused (.reservedOperand w))

/-- Steps under pending inputs are the moves in order: what `runMoves` reaches, `k` steps of the machine reach (00_scope.md R8). -/
def Obligations.StepsFollowTheSchedule : Prop :=
  ∀ (ms rest : List Move) (s u : State), runMoves ms { s with inputs := rest } = .next u →
    Host.Core.run Sys2Proof.core ms.length { s with inputs := ms ++ rest } = .next u

/-- A word placed where the machine fetches is what the very next step runs (log 4: the model's loader). -/
def Obligations.PlacedWordIsTheNextInstruction : Prop :=
  ∀ (s : State) (w : Nat) (i : Instr), decodeTableWord 32 w = some i →
    step (s.withFetchWord 32 w) = exec i { s.withFetchWord 32 w with inputs := s.inputs }

/-! ### Reset -/

/-- Reset, from any state and with any selector left in the device: every register at the value of the table, the
device's registers and pointer untouched (10_state.md R51; all values but MODE are the spec's decision D10). -/
def Obligations.ResetTakesTheTable : Prop :=
  ∀ (sel : RtcSel) (s : State), ∃ t, makeMove (.reset sel) s = .next t ∧
    t.mode = 0#2 ∧ t.pc = 0 ∧ t.cont = [] ∧ t.hold = 0#7 ∧ t.sp = false ∧ t.lp = false ∧ t.chg = false ∧
    t.latch = false ∧ t.rx = 0#8 ∧ t.tsec = 0#8 ∧ t.tmin = 0#8 ∧ t.thrs = 0#8 ∧ t.wh = 0#8 ∧ t.wm = 0#8 ∧
    t.dig = ⟨0xA#4, 0xA#4, 0xA#4, 0xA#4⟩ ∧ t.bl = false ∧ t.busop = .none ∧ t.opDone = false ∧ t.phase = .idle ∧
    t.trace = [] ∧ t.par = s.par ∧ t.rtcMem = s.rtcMem ∧ t.rtcPtr = s.rtcPtr ∧
    (s.par.wf = true → ∀ tube k : Fin 4,
      (t.lines.get tube).get ((s.par.tubeMap.get tube).get k) = (0xA#4).getLsbD k.val)

/-- The lines and the slots agree at reset: a REFRESH changes no line (10_state.md R46). Both are free in the reset table:
their values are the spec's own decision D10, which the model takes (log 5). -/
def Obligations.ResetLinesAgreeWithSlots : Prop :=
  State.reset.par.wf = true ∧ (driveLines State.reset).lines = State.reset.lines

/-! ### Invariants -/

/-- Both invariants hold at reset. HOLD at 0 is log 5, the device's empty memory log 6, the OPEN parameters log 4. -/
def Obligations.ResetMeetsTheInvariants : Prop := MachineInv State.reset ∧ HardwiredInv State.reset

/-- Every step keeps the machine's invariant, from every state that meets it: canonical memory, `HOLD <= 100`
(42_inputdebouncer.md R162), MODE never 3 (10_state.md R40), bus state in step with the main context. -/
def Obligations.EveryStepKeepsTheMachineInvariant : Prop :=
  ∀ s s' : State, MachineInv s → step s = .next s' → MachineInv s'

/-- The real block meets no illegal word, no bus misuse and no MODE 3: every step answers a next state and keeps the
invariant, but for a display of a working value above 99 (40_timebus.md R121, 44_modecontroller.md R214). -/
def Obligations.HardwiredProgramIsNeverMisused : Prop :=
  ∀ s : State, HardwiredInv s →
    (∃ s', step s = .next s' ∧ HardwiredInv s') ∨
    (∃ n, step s = .refused (.displayOperand n) ∧ 99 < n.toNat ∧ (n = s.wh ∨ n = s.wm))

/-- The working values stay in 0..23 and 0..59 at every step, a seed included when the time last read is valid
(44_modecontroller.md R214, under ValidRtc). -/
def Obligations.WorkingValuesStayInRange : Prop :=
  ∀ s s' : State, WorkingInRange s → ReadTimeValid s → step s = .next s' → WorkingInRange s'

/-- No step changes PROGRAM or any other parameter (20_memory.md R76, 00_scope.md R6). -/
def Obligations.NoStepChangesTheProgram : Prop :=
  ∀ s s' : State, step s = .next s' → s'.par = s.par

/-- MODE is written at three points, C4, H3 and M3, each writing its constant whatever MODE was (44_modecontroller.md R215);
each point stands in the LongPress block of one body and in no other. The one other writer is reset (70_reset_and_hazards.md R261). -/
def Obligations.ModeIsWrittenAtThreePoints : Prop :=
  (∀ (m : Move) (s s' : State), makeMove m s = .next s' →
    s'.mode = s.mode ∨
    (m = .main ∧ s.cont.head? = some (.act .seed) ∧ s'.mode = 1#2) ∨
    (m = .main ∧ s.cont.head? = some (.act .toMinutes) ∧ s'.mode = 2#2) ∨
    (m = .main ∧ s.cont.head? = some (.act .toClock) ∧ s'.mode = 0#2) ∨
    (isReset m = true ∧ s'.mode = 0#2)) ∧
  (∀ (s : State) (rest : List MicroStep),
    (s.cont = .act .seed :: rest → ∃ t, makeMove .main s = .next t ∧ t.mode = 1#2) ∧
    (s.cont = .act .toMinutes :: rest → ∃ t, makeMove .main s = .next t ∧ t.mode = 2#2) ∧
    (s.cont = .act .toClock :: rest → ∃ t, makeMove .main s = .next t ∧ t.mode = 0#2)) ∧
  (∀ b : Block,
    (.act .seed ∈ blockSteps b ↔ b = .clockLong) ∧
    (.act .toMinutes ∈ blockSteps b ↔ b = .hoursLong) ∧
    (.act .toClock ∈ blockSteps b ↔ b = .minutesLong))

/-! ### The tick interrupt and the two contexts -/

/-- Taking the tick changes HOLD, may set SP or LP, never both, clears neither, and touches nothing else
(60_exceptions.md R236, R237). -/
def Obligations.TickTouchesOnlyTheDebouncer : Prop :=
  ∀ (level : Level) (s : State), ∃ t, makeMove (.tick level) s = .next t ∧
    t = { s with hold := t.hold, sp := t.sp, lp := t.lp } ∧
    (s.sp = true → t.sp = true) ∧ (s.lp = true → t.lp = true) ∧ (t.sp = s.sp ∨ t.lp = s.lp)

/-- The main context never writes HOLD and never sets SP or LP, unless PROGRAM itself holds a TICK (10_state.md R20, R52). -/
def Obligations.MainContextNeverWritesTheDebouncer : Prop :=
  ∀ s s' : State, makeMove .main s = .next s' →
    (s.cont = [] → ∀ w level, fetchWord s = some w → decode w ≠ .ok (.tick level)) →
    s'.hold = s.hold ∧ (s'.sp = true → s.sp = true) ∧ (s'.lp = true → s.lp = true)

/-- A tick and a completion at the same instant: the order cannot be observed (60_exceptions.md R235). -/
def Obligations.TickAndCompletionCommute : Prop :=
  ∀ (level : Level) (ans : BusAnswer) (s : State),
    runMoves [.tick level, .complete ans] s = runMoves [.complete ans, .tick level] s

/-- One sample of the button, as a move of the tick context and as a TICK word of PROGRAM; for the word the pc advances as
after any operation, which is the model's choice (log 15) (42_inputdebouncer.md R160, 30_encoding.md R94 (e)). -/
def Obligations.TickSamplesTheButton : Prop :=
  decode 0x30000000#32 = .ok (.tick .pressed) ∧ decode 0x30010000#32 = .ok (.tick .released) ∧
  ∀ s : State,
    makeMove (.tick .pressed) s =
      .next (if s.hold.toNat < 100 then { s with hold := BitVec.ofNat 7 (s.hold.toNat + 1) } else s) ∧
    makeMove (.tick .released) s =
      .next { s with
        hold := 0#7
        sp := s.sp || (decide (2 ≤ s.hold.toNat) && decide (s.hold.toNat ≤ 19))
        lp := s.lp || decide (30 < s.hold.toNat) } ∧
    ∀ level, ∃ t, makeMove (.tick level) s = .next t ∧ exec (.tick level) s = .next (advancePc t)

/-- The classification of a whole press of `d` ticks that starts with HOLD at 0, for every `d` (42_inputdebouncer.md R161). -/
def Obligations.PressOfDurationIsClassified : Prop :=
  ∀ (s : State) (d : Nat), s.hold = 0#7 →
    runMoves (List.replicate d (.tick .pressed) ++ [.tick .released]) s =
      .next { s with
        sp := s.sp || (decide (2 ≤ d) && decide (d ≤ 19))
        lp := s.lp || decide (30 < d) }

/-- TSTSP and TSTLP copy a flag to T and clear nothing (42_inputdebouncer.md R165, R167). -/
def Obligations.TestsCopyTheFlagToTheLatch : Prop :=
  decode 0x31000000#32 = .ok .tstsp ∧ decode 0x33000000#32 = .ok .tstlp ∧
  ∀ s : State, exec .tstsp s = .next (advancePc { s with latch := s.sp }) ∧
    exec .tstlp s = .next (advancePc { s with latch := s.lp })

/-- CLRSP and CLRLP clear their flag and nothing else (42_inputdebouncer.md R166, R168). -/
def Obligations.ClearsClearTheFlag : Prop :=
  decode 0x32000000#32 = .ok .clrsp ∧ decode 0x34000000#32 = .ok .clrlp ∧
  ∀ s : State, exec .clrsp s = .next (advancePc { s with sp := false }) ∧
    exec .clrlp s = .next (advancePc { s with lp := false })

/-- A press that ends between the test of its flag and the clear is lost (20_memory.md R73 (b)): inside a body of MODESTEP,
where the conditional stands between the two, the run ends as it does without the press; and for the operations TSTSP and
CLRSP (95_test_vectors.md V-DB-21). -/
def Obligations.PressBetweenTestAndClearIsLost : Prop :=
  ∀ (s : State) (d : Nat) (b : Block) (rest : List MicroStep), s.hold = 0#7 →
    (s.cont = .act .tstSp :: .ifSet .latchT b :: rest → s.sp = true → 2 ≤ d → d ≤ 19 →
      (b = .clockShort ∨ b = .hoursShort ∨ b = .minutesShort) →
      ∃ u, runMoves ([.main, .main] ++ List.replicate d (.tick .pressed) ++ [.tick .released, .main]) s = .next u ∧
        u = { s with latch := true, sp := false, cont := (blockSteps b).tail ++ rest } ∧
        runMoves [.main, .main, .main] s = .next u) ∧
    (s.cont = .act .tstLp :: .ifSet .latchT b :: rest → s.lp = true → 30 < d →
      (b = .clockLong ∨ b = .hoursLong ∨ b = .minutesLong) →
      ∃ u, runMoves ([.main, .main] ++ List.replicate d (.tick .pressed) ++ [.tick .released, .main]) s = .next u ∧
        u = { s with latch := true, lp := false, cont := (blockSteps b).tail ++ rest } ∧
        runMoves [.main, .main, .main] s = .next u) ∧
    (2 ≤ d → d ≤ 19 →
      ∃ t u, exec .tstsp s = .next t ∧
        runMoves (List.replicate d (.tick .pressed) ++ [.tick .released]) t = .next u ∧ u.sp = true ∧
        exec .clrsp u = .next (advancePc (advancePc { s with latch := s.sp, sp := false })))

/-! ### TimeBus -/

/-- START: exec hands it over and its await blocks; once the engine completes it and the await is taken, the trace has gained
START and the phase is active, whatever the phase was (40_timebus.md R126). That a blocked await's move leaves the state as it is, is
the model's choice (log 3); that the device follows START is 20_memory.md R67 under the answer `device` (log 8). -/
def Obligations.StartCompletes : Prop :=
  decode 0x10000000#32 = .ok .start ∧
  ∀ (s : State) (ack : Bit) (d : Byte), s.busop = .none → s.responding = true →
    ∃ t, exec .start s = .next t ∧ t = { s with busop := .start, opDone := false, cont := [.await] } ∧
      makeMove .main t = .next t ∧
      runMoves [.complete (.device ack d), .main] t =
        .next (advancePc { s with
          trace := s.trace ++ [.start], phase := .active, opDone := false, rtcSel := .none })

/-- STOP: immediate, the trace gains STOP and the phase is idle (40_timebus.md R127). That it never waits is the spec's own
decision D22; the device follows it as 20_memory.md R67 says, and that it always sees it is the model's choice (log 8). -/
def Obligations.StopCompletes : Prop :=
  decode 0x11000000#32 = .ok .stop ∧
  ∀ s : State, s.phase = .active →
    exec .stop s = .next (advancePc { s with trace := s.trace ++ [.stop], phase := .idle, rtcSel := .none })

/-- WRBYTE: handed over, its await blocks; completed, the trace gains the byte, and the device has seen it (40_timebus.md
R128, 20_memory.md R67). The blocked await's move is log 3; the drawn acknowledge of a byte the device does not accept is
log 8. That the device's pointer does not advance after the data byte is the model's reading (log 10). -/
def Obligations.WrbyteCompletes : Prop :=
  (∀ a : Byte, decode (BitVec.ofNat 32 (0x12000000 + a.toNat * 2 ^ 16)) = .ok (.wrbyte a)) ∧
  ∀ (s : State) (a : Byte) (ack : Bit) (d : Byte), s.busop = .none → s.phase = .active → s.responding = true →
    ∃ t, exec (.wrbyte a) s = .next t ∧ t = { s with busop := .write a, opDone := false, cont := [.await] } ∧
      makeMove .main t = .next t ∧
      runMoves [.complete (.device ack d), .main] t =
        .next (advancePc { deviceByte a s with
          trace := s.trace ++ [.wbyte a (if deviceAccepts a s then 0#1 else ack)], opDone := false })

/-- RDBYTE: handed over, its await blocks; completed, RX is the byte the device drives, or a draw if it drives none
(40_timebus.md R129, 20_memory.md R67, R68). The blocked await's move is log 3; the carried draw is log 8. That the
device's pointer does not advance after the data byte is the model's reading (log 10). -/
def Obligations.RdbyteCompletes : Prop :=
  decode 0x13000000#32 = .ok .rdbyte ∧
  ∀ (s : State) (ack : Bit) (d : Byte), s.busop = .none → s.phase = .active → s.responding = true →
    ∃ t, exec .rdbyte s = .next t ∧ t = { s with busop := .read, opDone := false, cont := [.await] } ∧
      makeMove .main t = .next t ∧
      ∃ v, (s.rtcSel = .addressedR → v = rtcRead s s.rtcPtr) ∧ (s.rtcSel ≠ .addressedR → v = d) ∧
        runMoves [.complete (.device ack d), .main] t =
          .next (advancePc { s with rx := v, trace := s.trace ++ [.rbyte v 1#1], opDone := false })

/-- WRBYTE, RDBYTE and STOP while the phase is idle have no step (40_timebus.md R131). -/
def Obligations.BusPrimitivesAreRefusedWhileIdle : Prop :=
  ∀ s : State, s.phase = .idle →
    exec .stop s = .refused .phaseIdle ∧
    (s.busop = .none → (∀ a, exec (.wrbyte a) s = .refused .phaseIdle) ∧ exec .rdbyte s = .refused .phaseIdle)

/-- An await is enabled only when DONE is 1 and clears it; while DONE is 0 the main context has no step: its move
leaves the whole state as it is (40_timebus.md R123). -/
def Obligations.AwaitWaitsForDone : Prop :=
  ∀ (s : State) (rest : List MicroStep), s.cont = .await :: rest →
    (s.opDone = false → makeMove .main s = .next s) ∧
    (s.opDone = true → makeMove .main s = .next (goOn rest { s with opDone := false }))

/-- The bus engine's one step, for each operation in flight and whichever way it is answered (40_timebus.md R124); it
writes no register but RX, the bus state and the device (10_state.md R52), and without the device's part (log 8) not the
device. With nothing in flight the move leaves the state as it is (log 3). That the device's pointer does not advance after
the data byte is the model's reading (log 10). -/
def Obligations.CompletionIsTheEnginesOneStep : Prop :=
  ∀ (s : State) (ans : BusAnswer), s.responding = true → ∃ t, makeMove (.complete ans) s = .next t ∧
    t = { s with
      rx := t.rx, busop := t.busop, opDone := t.opDone, phase := t.phase, trace := t.trace, rtcMem := t.rtcMem,
      rtcPtr := t.rtcPtr, rtcSel := t.rtcSel } ∧
    (s.busop = .none → t = s) ∧
    (s.busop ≠ .none → t.busop = .none ∧ t.opDone = true) ∧
    (s.busop = .start → t.trace = s.trace ++ [.start] ∧ t.phase = .active ∧ t.rx = s.rx ∧ t.rtcMem = s.rtcMem ∧
      t.rtcPtr = s.rtcPtr) ∧
    (∀ b, s.busop = .write b → (∃ ack, t.trace = s.trace ++ [.wbyte b ack]) ∧ t.phase = s.phase ∧ t.rx = s.rx) ∧
    (s.busop = .read → t.trace = s.trace ++ [.rbyte t.rx 1#1] ∧ t.phase = s.phase ∧ t.rtcMem = s.rtcMem ∧
      t.rtcPtr = s.rtcPtr ∧ t.rtcSel = s.rtcSel) ∧
    (∀ ack d, ans = .undriven ack d →
      t.rtcMem = s.rtcMem ∧ t.rtcPtr = s.rtcPtr ∧ t.rtcSel = s.rtcSel ∧ (s.busop = .read → t.rx = d) ∧
      ∀ b, s.busop = .write b → t.trace = s.trace ++ [.wbyte b ack])

/-- The acknowledge bit of a sent byte has no effect but its record in BusTrace (40_timebus.md R130). -/
def Obligations.AcknowledgeHasNoEffect : Prop :=
  ∀ (s : State) (ack ack' : Bit) (d : Byte),
    { completeBusOp (.device ack d) s with trace := [] } = { completeBusOp (.device ack' d) s with trace := [] } ∧
    { completeBusOp (.undriven ack d) s with trace := [] } = { completeBusOp (.undriven ack' d) s with trace := [] }

/-- The hang: while no operation can complete, no list of moves but a reset ever frees a blocked main context, and all
that changes is the debouncer and the device's own registers (40_timebus.md R125, 44_modecontroller.md R216). -/
def Obligations.BlockedForEverWithoutCompletion : Prop :=
  ∀ (ms : List Move) (s : State), mainBlocked s = true →
    (s.responding = false ∨ ms.all (fun m => !isCompletion m) = true) → ms.all (fun m => !isReset m) = true →
    ∃ u, runMoves ms s = .next u ∧ mainBlocked u = true ∧
      u = { s with hold := u.hold, sp := u.sp, lp := u.lp, rtcMem := u.rtcMem, responding := u.responding }

/-- Under weak fairness of the main context and BusResponsive (60_exceptions.md R246 (a), (b), 40_timebus.md R125) a blocked
main context goes on: after finitely many moves its operation is complete and its next move is its await, at the micro-step
where it blocked. That its moves while blocked change nothing is log 3. -/
def Obligations.BlockedMainContextIsFreedWhenResponsive : Prop :=
  ∀ (sched : Nat → Move) (s : State), MainFair sched → BusResponsive sched s → (∀ n, isReset (sched n) = false) →
    mainBlocked s = true → s.busop ≠ .none →
    ∃ n u, runMoves (firstMoves sched n) s = .next u ∧ sched n = .main ∧ u.cont = s.cont ∧ u.busop = .none ∧
      makeMove .main u = .next (goOn s.cont.tail { u with opDone := false })

/-! ### RtcDevice -/

/-- RDREG: exec hands over its START; under a responding device the operation ends with RX the register's byte, the seven
events, the device's pointer at the register, and nothing else changed (41_rtcdevice.md R140, R141). That the device's
pointer does not advance after the data byte is the model's reading (log 10). -/
def Obligations.RdregCompletes : Prop :=
  (∀ a : Byte, decode (BitVec.ofNat 32 (0x20000000 + a.toNat * 2 ^ 16)) = .ok (.rdreg a)) ∧
  ∀ (s : State) (a : Byte) (ack : Bit) (d : Byte), s.busop = .none → s.responding = true → s.par.wf = true →
    ∃ t, exec (.rdreg a) s = .next t ∧
      runMoves (remainingMoves (.device ack d) (readRegSteps (.lit a))) t =
        .next (advancePc { s with
          rx := rtcRead s a, trace := s.trace ++ readRegEvents s.par a (rtcRead s a), phase := .idle,
          opDone := false, rtcPtr := a, rtcSel := .none })

/-- The same read with any number of ticks between any two micro-steps: only HOLD, SP and LP can tell (60_exceptions.md
R233, R236). That the device's pointer does not advance after the data byte is the model's reading (log 10). -/
def Obligations.RdregIsUnaffectedByTicks : Prop :=
  ∀ (s : State) (a : Byte) (ack : Bit) (d : Byte) (ms : List Move),
    s.busop = .none → s.responding = true → s.par.wf = true →
    ms.filter (fun m => !isTick m) = remainingMoves (.device ack d) (readRegSteps (.lit a)) →
    ∃ t u, exec (.rdreg a) s = .next t ∧ runMoves ms t = .next u ∧
      { u with hold := s.hold, sp := s.sp, lp := s.lp } = advancePc { s with
        rx := rtcRead s a, trace := s.trace ++ readRegEvents s.par a (rtcRead s a), phase := .idle,
        opDone := false, rtcPtr := a, rtcSel := .none }

/-- A device that takes no part while the engine still finishes every byte: RDREG returns the drawn byte, WRREG writes
nothing, and the whole end state is that of a transfer but for the drawn byte and acknowledges and the device's pointer and
register, so CORE cannot tell (40_timebus.md R130). The answer `undriven`, and the STOP the device still sees, are log 8. -/
def Obligations.AbsentDeviceIsNotNoticed : Prop :=
  ∀ (s : State) (a b : Byte) (ack : Bit) (d : Byte), s.busop = .none → s.responding = true →
    (∃ t, exec (.rdreg a) s = .next t ∧
      runMoves (remainingMoves (.undriven ack d) (readRegSteps (.lit a))) t =
        .next (advancePc { s with
          rx := d
          trace := s.trace ++ [.start, .wbyte s.par.slaW ack, .wbyte a ack, .start, .wbyte s.par.slaR ack,
            .rbyte d Config.rdAck, .stop]
          phase := .idle, opDone := false, rtcSel := .none })) ∧
    (∃ t, exec (.wrreg a b) s = .next t ∧
      runMoves (remainingMoves (.undriven ack d) (writeRegSteps (.lit a) (.lit b))) t =
        .next (advancePc { s with
          trace := s.trace ++ [.start, .wbyte s.par.slaW ack, .wbyte a ack, .wbyte b ack, .stop]
          phase := .idle, opDone := false, rtcSel := .none }))

/-- WRREG: the register takes the value, every other register keeps its byte, five events, and nothing else changes
(41_rtcdevice.md R142, R143). That the device's pointer does not advance after the data byte is the model's reading (log
10). -/
def Obligations.WrregCompletes : Prop :=
  (∀ a b : Byte, decode (BitVec.ofNat 32 (0x21000000 + a.toNat * 2 ^ 16 + b.toNat * 2 ^ 8)) = .ok (.wrreg a b)) ∧
  ∀ (s : State) (a b : Byte) (ack : Bit) (d : Byte), s.busop = .none → s.responding = true → s.par.wf = true →
    s.rtcMem.wf = true →
    ∃ t u, exec (.wrreg a b) s = .next t ∧
      runMoves (remainingMoves (.device ack d) (writeRegSteps (.lit a) (.lit b))) t = .next u ∧
      u = advancePc { s with
        trace := s.trace ++ writeRegEvents s.par a b, phase := .idle, opDone := false,
        rtcMem := u.rtcMem, rtcPtr := a, rtcSel := .none } ∧
      rtcRead u a = b ∧ ∀ x, x ≠ a → rtcRead u x = rtcRead s x

/-- RDTIME: the three registers as raw bytes, 21 events, nothing else changed but RX and the device's pointer
(41_rtcdevice.md R144). That the device's pointer does not advance after the data byte is the model's reading (log 10). -/
def Obligations.RdtimeCompletes : Prop :=
  decode 0x22000000#32 = .ok .rdtime ∧
  ∀ (s : State) (ack : Bit) (d : Byte), s.busop = .none → s.responding = true → s.par.wf = true →
    ∃ t, exec .rdtime s = .next t ∧
      runMoves (remainingMoves (.device ack d) readTimeSteps) t =
        .next (advancePc { s with
          rx := rtcRead s 0x02#8, tsec := rtcRead s 0x00#8, tmin := rtcRead s 0x01#8, thrs := rtcRead s 0x02#8,
          trace := s.trace ++ readTimeEvents s.par (rtcRead s 0x00#8) (rtcRead s 0x01#8) (rtcRead s 0x02#8),
          phase := .idle, opDone := false, rtcPtr := 0x02#8, rtcSel := .none })

/-- The torn read: with the device's tick after the first or after the second register, the seconds, or the seconds and
minutes, are the old ones and the rest the new (41_rtcdevice.md R145). -/
def Obligations.RdtimeCanBeTorn : Prop :=
  ∀ (s : State) (ack : Bit) (d : Byte), s.busop = .none → s.responding = true → s.par.wf = true →
    (∃ t u, exec .rdtime s = .next t ∧
      runMoves (remainingMoves (.device ack d) (readRegSteps (.lit 0x00#8) ++ [.act (.loadTime .tsec)]) ++ [.rtcTick] ++
        responsiveMoves (.device ack d) (readRegSteps (.lit 0x01#8) ++ [.act (.loadTime .tmin)] ++
          readRegSteps (.lit 0x02#8) ++ [.act (.loadTime .thrs)])) t = .next u ∧
      u.tsec = rtcRead s 0x00#8 ∧ u.tmin = rtcRead (rtcTick s) 0x01#8 ∧ u.thrs = rtcRead (rtcTick s) 0x02#8 ∧
      u.cont = []) ∧
    (∃ t u, exec .rdtime s = .next t ∧
      runMoves (remainingMoves (.device ack d) (readRegSteps (.lit 0x00#8) ++ [.act (.loadTime .tsec)] ++
          readRegSteps (.lit 0x01#8) ++ [.act (.loadTime .tmin)]) ++ [.rtcTick] ++
        responsiveMoves (.device ack d) (readRegSteps (.lit 0x02#8) ++ [.act (.loadTime .thrs)])) t = .next u ∧
      u.tsec = rtcRead s 0x00#8 ∧ u.tmin = rtcRead s 0x01#8 ∧ u.thrs = rtcRead (rtcTick s) 0x02#8 ∧ u.cont = [])

/-- WRTIME: the BCD of seconds, minutes and hours in registers 0, 1, 2, every other register unchanged, 15 events
(41_rtcdevice.md R146). That the device's pointer does not advance after the data byte is the model's reading (log 10). -/
def Obligations.WrtimeCompletes : Prop :=
  (∀ a b c : Byte, decode (BitVec.ofNat 32 (0x23000000 + a.toNat * 2 ^ 16 + b.toNat * 2 ^ 8 + c.toNat)) =
    .ok (.wrtime a b c)) ∧
  ∀ (s : State) (a b c : Byte) (ack : Bit) (d : Byte), s.busop = .none → s.responding = true → s.par.wf = true →
    s.rtcMem.wf = true →
    ∃ t u, exec (.wrtime a b c) s = .next t ∧
      runMoves (remainingMoves (.device ack d) (writeTimeSteps (.lit a) (.lit b) (.lit c))) t = .next u ∧
      u = advancePc { s with
        trace := s.trace ++ writeTimeEvents s.par a b c, phase := .idle, opDone := false,
        rtcMem := u.rtcMem, rtcPtr := 0x02#8, rtcSel := .none } ∧
      rtcRead u 0x00#8 = dec2bcd c ∧ rtcRead u 0x01#8 = dec2bcd b ∧ rtcRead u 0x02#8 = dec2bcd a ∧
      ∀ x, x ≠ 0x00#8 → x ≠ 0x01#8 → x ≠ 0x02#8 → rtcRead u x = rtcRead s x

/-- One second of the device: a valid time becomes the next second, carried into minutes and hours, wrapping at 24 hours,
and is valid again, and an invalid time is left alone (log 9) (20_memory.md R70). That no register but 0, 1, 2 changes, the
date registers at midnight included, is the model's choice (log 25). -/
def Obligations.DeviceTickIsTheNextSecond : Prop :=
  ∀ s : State, s.rtcMem.wf = true → ∃ t, makeMove .rtcTick s = .next t ∧
    t = { s with rtcMem := t.rtcMem } ∧
    (∀ x, x ≠ 0x00#8 → x ≠ 0x01#8 → x ≠ 0x02#8 → rtcRead t x = rtcRead s x) ∧
    (validRtc s = false → t = s) ∧
    (validRtc s = true → validRtc t = true ∧
      (bcd2dec (rtcRead t 0x02#8)).toNat * 3600 + (bcd2dec (rtcRead t 0x01#8)).toNat * 60 +
          (bcd2dec (rtcRead t 0x00#8)).toNat =
        ((bcd2dec (rtcRead s 0x02#8)).toNat * 3600 + (bcd2dec (rtcRead s 0x01#8)).toNat * 60 +
          (bcd2dec (rtcRead s 0x00#8)).toNat + 1) % 86400)

/-- The BCD round trip for 0..99, and the nibbles of the BCD form (00_scope.md R14, R15). -/
def Obligations.BcdRoundTrip : Prop :=
  ∀ n : Fin 100, bcd2dec (dec2bcd (BitVec.ofNat 8 n.val)) = BitVec.ofNat 8 n.val ∧
    (hiNibble (dec2bcd (BitVec.ofNat 8 n.val))).toNat = n.val / 10 ∧
    (loNibble (dec2bcd (BitVec.ofNat 8 n.val))).toNat = n.val % 10

/-! ### DisplayDriver -/

/-- SETDIG: the slot takes the value, every other slot and all lines keep theirs (43_displaydriver.md R181). -/
def Obligations.SetdigStoresTheSlot : Prop :=
  (∀ (tube : Fin 4) (v : Nibble),
    decode (BitVec.ofNat 32 (0x40000000 + tube.val * 2 ^ 16 + v.toNat * 2 ^ 8)) = .ok (.setdig tube v)) ∧
  ∀ (s : State) (tube : Fin 4) (v : Nibble), ∃ t, exec (.setdig tube v) s = .next t ∧
    t = advancePc { s with dig := t.dig } ∧ t.dig.get tube = v ∧ ∀ k, k ≠ tube → t.dig.get k = s.dig.get k

/-- REFRESH: line `TUBE_MAP[t](k)` of tube `t` carries bit `k` of slot `t`, for all sixteen, and nothing else changes (43_displaydriver.md R182). -/
def Obligations.RefreshDrivesEveryLine : Prop :=
  decode 0x41000000#32 = .ok .refresh ∧
  ∀ s : State, s.par.wf = true → ∃ t, exec .refresh s = .next t ∧ t = advancePc { s with lines := t.lines } ∧
    ∀ tube k : Fin 4, (t.lines.get tube).get ((s.par.tubeMap.get tube).get k) = (s.dig.get tube).getLsbD k.val

/-- REFRESH is a function of the slots alone, so it is idempotent (43_displaydriver.md R182). -/
def Obligations.RefreshIsAFunctionOfTheSlots : Prop :=
  ∀ s s' : State, s.par.wf = true → s'.par = s.par → s'.dig = s.dig →
    (driveLines s').lines = (driveLines s).lines ∧ driveLines (driveLines s) = driveLines s

/-- DISPL of 0..99: exec stores the tens digit; two more steps and tubes 0 and 1 hold the digits, 2 and 3 their own, and the
lines of all four follow (43_displaydriver.md R184). -/
def Obligations.DisplCompletes : Prop :=
  (∀ n : BitVec 7, n.toNat ≤ 99 → decode (BitVec.ofNat 32 (0x42000000 + n.toNat * 2 ^ 16)) = .ok (.displ n)) ∧
  ∀ (s : State) (n : BitVec 7), n.toNat ≤ 99 → s.par.wf = true →
    ∃ t, exec (.displ n) s = .next t ∧ t.dig.t0 = tensDigit n.toNat ∧
      runMoves [.main, .main] t = .next (advancePc { s with
        dig := ⟨tensDigit n.toNat, unitsDigit n.toNat, s.dig.t2, s.dig.t3⟩,
        lines := linesOf s.par ⟨tensDigit n.toNat, unitsDigit n.toNat, s.dig.t2, s.dig.t3⟩ })

/-- DISPR of 0..99: likewise for tubes 2 and 3 (43_displaydriver.md R185). -/
def Obligations.DisprCompletes : Prop :=
  (∀ n : BitVec 7, n.toNat ≤ 99 → decode (BitVec.ofNat 32 (0x43000000 + n.toNat * 2 ^ 16)) = .ok (.dispr n)) ∧
  ∀ (s : State) (n : BitVec 7), n.toNat ≤ 99 → s.par.wf = true →
    ∃ t, exec (.dispr n) s = .next t ∧ t.dig.t2 = tensDigit n.toNat ∧
      runMoves [.main, .main] t = .next (advancePc { s with
        dig := ⟨s.dig.t0, s.dig.t1, tensDigit n.toNat, unitsDigit n.toNat⟩,
        lines := linesOf s.par ⟨s.dig.t0, s.dig.t1, tensDigit n.toNat, unitsDigit n.toNat⟩ })

/-- A display operand above 99 has no step, as an operand of a word or as a working value of MODESTEP (43_displaydriver.md
R184, 44_modecontroller.md R214, D24). -/
def Obligations.DisplayAbove99IsRefused : Prop :=
  ∀ s : State,
    (∀ n : BitVec 7, 99 < n.toNat →
      exec (.displ n) s = .refused (.displayOperand (n.setWidth 8)) ∧
      exec (.dispr n) s = .refused (.displayOperand (n.setWidth 8))) ∧
    (s.mode = 1#2 → 99 < s.wh.toNat → exec .modestep s = .refused (.displayOperand s.wh)) ∧
    (s.mode = 2#2 → 99 < s.wm.toNat → exec .modestep s = .refused (.displayOperand s.wm))

/-- BLON, BLOFF, BLTOG: the backlight line and nothing else (43_displaydriver.md R187 to R189). -/
def Obligations.BacklightOperationsComplete : Prop :=
  decode 0x44000000#32 = .ok .blon ∧ decode 0x45000000#32 = .ok .bloff ∧ decode 0x46000000#32 = .ok .bltog ∧
  ∀ s : State, exec .blon s = .next (advancePc { s with bl := true }) ∧
    exec .bloff s = .next (advancePc { s with bl := false }) ∧
    exec .bltog s = .next (advancePc { s with bl := !s.bl })

/-- The two display paths agree on valid BCD bytes (43_displaydriver.md R186). -/
def Obligations.DisplayPathsAgreeOnValidBytes : Prop :=
  ∀ b : Byte, isBcd b = true →
    hiNibble b = tensDigit (bcd2dec b).toNat ∧ loNibble b = unitsDigit (bcd2dec b).toNat

/-! ### ModeController -/

/-- One MODESTEP in ClockMode with a responding device and no tick inside: RDTIME, the raw nibbles on the tubes, then
ShortPress, then LongPress, each cleared and acted on if it was set (44_modecontroller.md R201). That the device's pointer
does not advance after the data byte is the model's reading (log 10). -/
def Obligations.ModestepInClockMode : Prop :=
  decode 0x50000000#32 = .ok .modestep ∧
  ∀ (s : State) (ack : Bit) (d : Byte), s.mode = 0#2 → s.busop = .none → s.responding = true → s.par.wf = true →
    ∃ t, exec .modestep s = .next t ∧
      runMoves (remainingMoves (.device ack d) (readTimeSteps ++
          [.act (.setDig 0 (.hi .thrs)), .act (.setDig 1 (.lo .thrs)), .act (.setDig 2 (.hi .tmin)),
           .act (.setDig 3 (.lo .tmin)), .act .refresh]) ++ pressMoves s.sp 2 ++ pressMoves s.lp 2) t =
        .next (advancePc { s with
          rx := rtcRead s 0x02#8, tsec := rtcRead s 0x00#8, tmin := rtcRead s 0x01#8, thrs := rtcRead s 0x02#8,
          trace := s.trace ++ readTimeEvents s.par (rtcRead s 0x00#8) (rtcRead s 0x01#8) (rtcRead s 0x02#8),
          phase := .idle, opDone := false, rtcPtr := 0x02#8, rtcSel := .none,
          dig := ⟨hiNibble (rtcRead s 0x02#8), loNibble (rtcRead s 0x02#8),
            hiNibble (rtcRead s 0x01#8), loNibble (rtcRead s 0x01#8)⟩,
          lines := linesOf s.par ⟨hiNibble (rtcRead s 0x02#8), loNibble (rtcRead s 0x02#8),
            hiNibble (rtcRead s 0x01#8), loNibble (rtcRead s 0x01#8)⟩,
          latch := s.lp, sp := false, lp := false,
          bl := if s.sp then !s.bl else s.bl,
          wh := if s.lp then bcd2dec (rtcRead s 0x02#8) else s.wh,
          wm := if s.lp then bcd2dec (rtcRead s 0x01#8) else s.wm,
          chg := if s.lp then false else s.chg,
          mode := if s.lp then 1#2 else 0#2 })

/-- One MODESTEP in SettingsMode Hours: the working hours on the left pair, the right pair blank (its lines in this iteration
or the next, by SETTINGS_BLANK_PUSH), then ShortPress and LongPress; the bus and the device are not touched (44_modecontroller.md R202, R205). -/
def Obligations.ModestepInHoursMode : Prop :=
  ∀ (s : State) (ans : BusAnswer), s.mode = 1#2 → s.wh.toNat ≤ 99 → s.par.wf = true →
    ∃ t, exec .modestep s = .next t ∧
      runMoves (remainingMoves ans (displayLeftSteps .wh ++ [.act (.setDig 2 (.lit 0xA#4)), .act (.setDig 3 (.lit 0xA#4))] ++
          blankPushSteps s.par.blankPush) ++ pressMoves s.sp 3 ++ pressMoves s.lp 2) t =
        .next (advancePc { s with
          dig := ⟨tensDigit s.wh.toNat, unitsDigit s.wh.toNat, 0xA#4, 0xA#4⟩,
          lines := linesOf s.par (match s.par.blankPush with
            | .sameIteration => ⟨tensDigit s.wh.toNat, unitsDigit s.wh.toNat, 0xA#4, 0xA#4⟩
            | .nextRefresh => ⟨tensDigit s.wh.toNat, unitsDigit s.wh.toNat, s.dig.t2, s.dig.t3⟩),
          latch := s.lp, sp := false, lp := false,
          wh := if s.sp then (if s.wh.toNat + 1 > 23 then 0#8 else s.wh + 1#8) else s.wh,
          chg := s.sp || s.chg,
          mode := if s.lp then 2#2 else 1#2 })

/-- One MODESTEP in SettingsMode Minutes that commits nothing: no LongPress, or no change in the session. The bus sees no
event and the device is untouched (44_modecontroller.md R203, R212). -/
def Obligations.ModestepInMinutesModeWithoutCommit : Prop :=
  ∀ (s : State) (ans : BusAnswer), s.mode = 2#2 → s.wm.toNat ≤ 99 → s.par.wf = true →
    (s.lp = false ∨ (s.sp || s.chg) = false) →
    ∃ t, exec .modestep s = .next t ∧
      runMoves (remainingMoves ans (displayRightSteps .wm ++ [.act (.setDig 0 (.lit 0xA#4)), .act (.setDig 1 (.lit 0xA#4))] ++
          blankPushSteps s.par.blankPush) ++ pressMoves s.sp 3 ++ pressMoves s.lp 3) t =
        .next (advancePc { minutesShown s with mode := if s.lp then 0#2 else 2#2 })

/-- One MODESTEP in SettingsMode Minutes that commits: exactly one WRTIME of the working hours, the working minutes as they
stand after this iteration's ShortPress, and seconds 0, then ClockMode (44_modecontroller.md R203, R212). That the device's
pointer does not advance after the data byte is the model's reading (log 10). -/
def Obligations.ModestepInMinutesModeWithCommit : Prop :=
  ∀ (s : State) (ack : Bit) (d : Byte), s.mode = 2#2 → s.wm.toNat ≤ 99 → s.par.wf = true → s.rtcMem.wf = true →
    s.busop = .none → s.responding = true → s.lp = true → (s.sp || s.chg) = true →
    ∃ t u, exec .modestep s = .next t ∧
      runMoves (remainingMoves (.device ack d) (displayRightSteps .wm ++
          [.act (.setDig 0 (.lit 0xA#4)), .act (.setDig 1 (.lit 0xA#4))] ++ blankPushSteps s.par.blankPush) ++
        pressMoves s.sp 3 ++ [.main, .main, .main, .main] ++
        responsiveMoves (.device ack d) (writeTimeSteps .wh .wm (.lit 0#8)) ++ [.main]) t = .next u ∧
      u = advancePc { minutesShown s with
        mode := 0#2, trace := s.trace ++ writeTimeEvents s.par s.wh (minutesShown s).wm 0#8,
        phase := .idle, opDone := false, rtcMem := u.rtcMem, rtcPtr := 0x02#8, rtcSel := .none } ∧
      rtcRead u 0x00#8 = 0x00#8 ∧ rtcRead u 0x01#8 = dec2bcd (minutesShown s).wm ∧
      rtcRead u 0x02#8 = dec2bcd s.wh ∧
      ∀ x, x ≠ 0x00#8 → x ≠ 0x01#8 → x ≠ 0x02#8 → rtcRead u x = rtcRead s x

/-- MODESTEP with MODE 3 has no step (44_modecontroller.md R200). -/
def Obligations.ModestepInModeThreeIsRefused : Prop :=
  ∀ s : State, s.mode = 3#2 → exec .modestep s = .refused .modeUnused

/-- The increments wrap with "greater than": above the bound, or at it, the result is 0 (44_modecontroller.md R211). -/
def Obligations.IncrementsWrapAboveTheBound : Prop :=
  ∀ (s : State) (rest : List MicroStep),
    runMicro (.act .incWh) rest s = .next (goOn rest { s with wh := if 23 ≤ s.wh.toNat then 0#8 else s.wh + 1#8 }) ∧
    runMicro (.act .incWm) rest s = .next (goOn rest { s with wm := if 59 ≤ s.wm.toNat then 0#8 else s.wm + 1#8 })

/-- The seed takes the bytes last read, unvalidated, clears CHG and enters SettingsMode Hours in one micro-step; whatever the
bytes it is at most 165, and in range when they are valid (44_modecontroller.md R213, R214). -/
def Obligations.SeedTakesTheTimeLastRead : Prop :=
  ∀ (s : State) (rest : List MicroStep), ∃ t, runMicro (.act .seed) rest s = .next t ∧
    t = goOn rest { s with wh := bcd2dec s.thrs, wm := bcd2dec s.tmin, chg := false, mode := 1#2 } ∧
    t.wh.toNat ≤ 165 ∧ t.wm.toNat ≤ 165 ∧
    (ReadTimeValid s → WorkingInRange t ∧
      t.wh.toNat = (hiNibble s.thrs).toNat * 10 + (loNibble s.thrs).toNat ∧
      t.wm.toNat = (hiNibble s.tmin).toNat * 10 + (loNibble s.tmin).toNat)
end

