-- ==== Sys2Proof/Laws/Quad.lean ====
section
/-! SUPPORT. Reading and writing a four-entry file. -/

namespace Sys2Proof

@[simp] theorem Quad.get_set_same {α : Type} (q : Quad α) (i : Fin 4) (v : α) : (q.set i v).get i = v := by
  fin_cases i <;> rfl

@[simp] theorem Quad.get_set_ne {α : Type} (q : Quad α) (i j : Fin 4) (v : α) (h : j ≠ i) :
    (q.set i v).get j = q.get j := by
  fin_cases i <;> fin_cases j <;> first | rfl | exact absurd rfl h

@[simp] theorem Quad.get_tabulate {α : Type} (f : Fin 4 → α) (i : Fin 4) : (Quad.tabulate f).get i = f i := by
  fin_cases i <;> rfl

theorem Quad.eq_of_get {α : Type} {p q : Quad α} (h : ∀ i, p.get i = q.get i) : p = q := by
  cases p; cases q
  exact congr (congr (congr (congrArg _ (h 0)) (h 1)) (h 2)) (h 3)

end Sys2Proof
end

