-- ==== Sys2Proof/Laws/State.lean ====
section
/-! SUPPORT. For every named update of State, what every field is afterwards; no later proof unfolds a record update. -/

namespace Sys2Proof.Machine

@[simp] theorem sampleButton_fields (level : Level) (s : State) :
    (sampleButton level s).par = s.par ∧ (sampleButton level s).rx = s.rx ∧ (sampleButton level s).tsec = s.tsec ∧
    (sampleButton level s).tmin = s.tmin ∧ (sampleButton level s).thrs = s.thrs ∧ (sampleButton level s).wh = s.wh ∧
    (sampleButton level s).wm = s.wm ∧ (sampleButton level s).pc = s.pc ∧ (sampleButton level s).cont = s.cont ∧
    (sampleButton level s).chg = s.chg ∧ (sampleButton level s).latch = s.latch ∧
    (sampleButton level s).mode = s.mode ∧ (sampleButton level s).busop = s.busop ∧
    (sampleButton level s).opDone = s.opDone ∧ (sampleButton level s).phase = s.phase ∧
    (sampleButton level s).trace = s.trace ∧ (sampleButton level s).bl = s.bl ∧ (sampleButton level s).dig = s.dig ∧
    (sampleButton level s).lines = s.lines ∧ (sampleButton level s).rtcMem = s.rtcMem ∧
    (sampleButton level s).rtcPtr = s.rtcPtr ∧ (sampleButton level s).rtcSel = s.rtcSel ∧
    (sampleButton level s).responding = s.responding ∧ (sampleButton level s).inputs = s.inputs ∧
    (sampleButton level s).draws = s.draws := by
  unfold sampleButton classifyHold
  cases level <;> dsimp only <;> split_ifs <;> simp

@[simp] theorem testShort_fields (s : State) :
    (testShort s).par = s.par ∧ (testShort s).rx = s.rx ∧ (testShort s).tsec = s.tsec ∧ (testShort s).tmin = s.tmin ∧
    (testShort s).thrs = s.thrs ∧ (testShort s).wh = s.wh ∧ (testShort s).wm = s.wm ∧ (testShort s).pc = s.pc ∧
    (testShort s).cont = s.cont ∧ (testShort s).sp = s.sp ∧ (testShort s).lp = s.lp ∧ (testShort s).chg = s.chg ∧
    (testShort s).latch = s.sp ∧ (testShort s).mode = s.mode ∧ (testShort s).hold = s.hold ∧
    (testShort s).busop = s.busop ∧ (testShort s).opDone = s.opDone ∧ (testShort s).phase = s.phase ∧
    (testShort s).trace = s.trace ∧ (testShort s).bl = s.bl ∧ (testShort s).dig = s.dig ∧
    (testShort s).lines = s.lines ∧ (testShort s).rtcMem = s.rtcMem ∧ (testShort s).rtcPtr = s.rtcPtr ∧
    (testShort s).rtcSel = s.rtcSel ∧ (testShort s).responding = s.responding ∧ (testShort s).inputs = s.inputs ∧
    (testShort s).draws = s.draws := by
  and_intros <;> rfl

@[simp] theorem clearShort_fields (s : State) :
    (clearShort s).par = s.par ∧ (clearShort s).rx = s.rx ∧ (clearShort s).tsec = s.tsec ∧
    (clearShort s).tmin = s.tmin ∧ (clearShort s).thrs = s.thrs ∧ (clearShort s).wh = s.wh ∧
    (clearShort s).wm = s.wm ∧ (clearShort s).pc = s.pc ∧ (clearShort s).cont = s.cont ∧ (clearShort s).sp = false ∧
    (clearShort s).lp = s.lp ∧ (clearShort s).chg = s.chg ∧ (clearShort s).latch = s.latch ∧
    (clearShort s).mode = s.mode ∧ (clearShort s).hold = s.hold ∧ (clearShort s).busop = s.busop ∧
    (clearShort s).opDone = s.opDone ∧ (clearShort s).phase = s.phase ∧ (clearShort s).trace = s.trace ∧
    (clearShort s).bl = s.bl ∧ (clearShort s).dig = s.dig ∧ (clearShort s).lines = s.lines ∧
    (clearShort s).rtcMem = s.rtcMem ∧ (clearShort s).rtcPtr = s.rtcPtr ∧ (clearShort s).rtcSel = s.rtcSel ∧
    (clearShort s).responding = s.responding ∧ (clearShort s).inputs = s.inputs ∧ (clearShort s).draws = s.draws := by
  and_intros <;> rfl

@[simp] theorem testLong_fields (s : State) :
    (testLong s).par = s.par ∧ (testLong s).rx = s.rx ∧ (testLong s).tsec = s.tsec ∧ (testLong s).tmin = s.tmin ∧
    (testLong s).thrs = s.thrs ∧ (testLong s).wh = s.wh ∧ (testLong s).wm = s.wm ∧ (testLong s).pc = s.pc ∧
    (testLong s).cont = s.cont ∧ (testLong s).sp = s.sp ∧ (testLong s).lp = s.lp ∧ (testLong s).chg = s.chg ∧
    (testLong s).latch = s.lp ∧ (testLong s).mode = s.mode ∧ (testLong s).hold = s.hold ∧
    (testLong s).busop = s.busop ∧ (testLong s).opDone = s.opDone ∧ (testLong s).phase = s.phase ∧
    (testLong s).trace = s.trace ∧ (testLong s).bl = s.bl ∧ (testLong s).dig = s.dig ∧ (testLong s).lines = s.lines ∧
    (testLong s).rtcMem = s.rtcMem ∧ (testLong s).rtcPtr = s.rtcPtr ∧ (testLong s).rtcSel = s.rtcSel ∧
    (testLong s).responding = s.responding ∧ (testLong s).inputs = s.inputs ∧ (testLong s).draws = s.draws := by
  and_intros <;> rfl

@[simp] theorem clearLong_fields (s : State) :
    (clearLong s).par = s.par ∧ (clearLong s).rx = s.rx ∧ (clearLong s).tsec = s.tsec ∧ (clearLong s).tmin = s.tmin ∧
    (clearLong s).thrs = s.thrs ∧ (clearLong s).wh = s.wh ∧ (clearLong s).wm = s.wm ∧ (clearLong s).pc = s.pc ∧
    (clearLong s).cont = s.cont ∧ (clearLong s).sp = s.sp ∧ (clearLong s).lp = false ∧ (clearLong s).chg = s.chg ∧
    (clearLong s).latch = s.latch ∧ (clearLong s).mode = s.mode ∧ (clearLong s).hold = s.hold ∧
    (clearLong s).busop = s.busop ∧ (clearLong s).opDone = s.opDone ∧ (clearLong s).phase = s.phase ∧
    (clearLong s).trace = s.trace ∧ (clearLong s).bl = s.bl ∧ (clearLong s).dig = s.dig ∧
    (clearLong s).lines = s.lines ∧ (clearLong s).rtcMem = s.rtcMem ∧ (clearLong s).rtcPtr = s.rtcPtr ∧
    (clearLong s).rtcSel = s.rtcSel ∧ (clearLong s).responding = s.responding ∧ (clearLong s).inputs = s.inputs ∧
    (clearLong s).draws = s.draws := by
  and_intros <;> rfl

@[simp] theorem markChanged_fields (s : State) :
    (markChanged s).par = s.par ∧ (markChanged s).rx = s.rx ∧ (markChanged s).tsec = s.tsec ∧
    (markChanged s).tmin = s.tmin ∧ (markChanged s).thrs = s.thrs ∧ (markChanged s).wh = s.wh ∧
    (markChanged s).wm = s.wm ∧ (markChanged s).pc = s.pc ∧ (markChanged s).cont = s.cont ∧
    (markChanged s).sp = s.sp ∧ (markChanged s).lp = s.lp ∧ (markChanged s).chg = true ∧
    (markChanged s).latch = s.latch ∧ (markChanged s).mode = s.mode ∧ (markChanged s).hold = s.hold ∧
    (markChanged s).busop = s.busop ∧ (markChanged s).opDone = s.opDone ∧ (markChanged s).phase = s.phase ∧
    (markChanged s).trace = s.trace ∧ (markChanged s).bl = s.bl ∧ (markChanged s).dig = s.dig ∧
    (markChanged s).lines = s.lines ∧ (markChanged s).rtcMem = s.rtcMem ∧ (markChanged s).rtcPtr = s.rtcPtr ∧
    (markChanged s).rtcSel = s.rtcSel ∧ (markChanged s).responding = s.responding ∧
    (markChanged s).inputs = s.inputs ∧ (markChanged s).draws = s.draws := by
  and_intros <;> rfl

@[simp] theorem rtcWrite_fields (a v : Byte) (s : State) :
    (rtcWrite a v s).par = s.par ∧ (rtcWrite a v s).rx = s.rx ∧ (rtcWrite a v s).tsec = s.tsec ∧
    (rtcWrite a v s).tmin = s.tmin ∧ (rtcWrite a v s).thrs = s.thrs ∧ (rtcWrite a v s).wh = s.wh ∧
    (rtcWrite a v s).wm = s.wm ∧ (rtcWrite a v s).pc = s.pc ∧ (rtcWrite a v s).cont = s.cont ∧
    (rtcWrite a v s).sp = s.sp ∧ (rtcWrite a v s).lp = s.lp ∧ (rtcWrite a v s).chg = s.chg ∧
    (rtcWrite a v s).latch = s.latch ∧ (rtcWrite a v s).mode = s.mode ∧ (rtcWrite a v s).hold = s.hold ∧
    (rtcWrite a v s).busop = s.busop ∧ (rtcWrite a v s).opDone = s.opDone ∧ (rtcWrite a v s).phase = s.phase ∧
    (rtcWrite a v s).trace = s.trace ∧ (rtcWrite a v s).bl = s.bl ∧ (rtcWrite a v s).dig = s.dig ∧
    (rtcWrite a v s).lines = s.lines ∧ (rtcWrite a v s).rtcMem = s.rtcMem.write a.toNat v ∧
    (rtcWrite a v s).rtcPtr = s.rtcPtr ∧ (rtcWrite a v s).rtcSel = s.rtcSel ∧
    (rtcWrite a v s).responding = s.responding ∧ (rtcWrite a v s).inputs = s.inputs ∧ (rtcWrite a v s).draws = s.draws := by
  and_intros <;> rfl

@[simp] theorem deviceFrame_fields (s : State) :
    (deviceFrame s).par = s.par ∧ (deviceFrame s).rx = s.rx ∧ (deviceFrame s).tsec = s.tsec ∧
    (deviceFrame s).tmin = s.tmin ∧ (deviceFrame s).thrs = s.thrs ∧ (deviceFrame s).wh = s.wh ∧
    (deviceFrame s).wm = s.wm ∧ (deviceFrame s).pc = s.pc ∧ (deviceFrame s).cont = s.cont ∧
    (deviceFrame s).sp = s.sp ∧ (deviceFrame s).lp = s.lp ∧ (deviceFrame s).chg = s.chg ∧
    (deviceFrame s).latch = s.latch ∧ (deviceFrame s).mode = s.mode ∧ (deviceFrame s).hold = s.hold ∧
    (deviceFrame s).busop = s.busop ∧ (deviceFrame s).opDone = s.opDone ∧ (deviceFrame s).phase = s.phase ∧
    (deviceFrame s).trace = s.trace ∧ (deviceFrame s).bl = s.bl ∧ (deviceFrame s).dig = s.dig ∧
    (deviceFrame s).lines = s.lines ∧ (deviceFrame s).rtcMem = s.rtcMem ∧ (deviceFrame s).rtcPtr = s.rtcPtr ∧
    (deviceFrame s).rtcSel = .none ∧ (deviceFrame s).responding = s.responding ∧ (deviceFrame s).inputs = s.inputs ∧
    (deviceFrame s).draws = s.draws := by
  and_intros <;> rfl

@[simp] theorem deviceByte_fields (b : Byte) (s : State) :
    (deviceByte b s).par = s.par ∧ (deviceByte b s).rx = s.rx ∧ (deviceByte b s).tsec = s.tsec ∧
    (deviceByte b s).tmin = s.tmin ∧ (deviceByte b s).thrs = s.thrs ∧ (deviceByte b s).wh = s.wh ∧
    (deviceByte b s).wm = s.wm ∧ (deviceByte b s).pc = s.pc ∧ (deviceByte b s).cont = s.cont ∧
    (deviceByte b s).sp = s.sp ∧ (deviceByte b s).lp = s.lp ∧ (deviceByte b s).chg = s.chg ∧
    (deviceByte b s).latch = s.latch ∧ (deviceByte b s).mode = s.mode ∧ (deviceByte b s).hold = s.hold ∧
    (deviceByte b s).busop = s.busop ∧ (deviceByte b s).opDone = s.opDone ∧ (deviceByte b s).phase = s.phase ∧
    (deviceByte b s).trace = s.trace ∧ (deviceByte b s).bl = s.bl ∧ (deviceByte b s).dig = s.dig ∧
    (deviceByte b s).lines = s.lines ∧ (deviceByte b s).responding = s.responding ∧
    (deviceByte b s).inputs = s.inputs ∧ (deviceByte b s).draws = s.draws := by
  unfold deviceByte
  split <;> (try split_ifs) <;> simp

@[simp] theorem rtcTick_fields (s : State) :
    (rtcTick s).par = s.par ∧ (rtcTick s).rx = s.rx ∧ (rtcTick s).tsec = s.tsec ∧ (rtcTick s).tmin = s.tmin ∧
    (rtcTick s).thrs = s.thrs ∧ (rtcTick s).wh = s.wh ∧ (rtcTick s).wm = s.wm ∧ (rtcTick s).pc = s.pc ∧
    (rtcTick s).cont = s.cont ∧ (rtcTick s).sp = s.sp ∧ (rtcTick s).lp = s.lp ∧ (rtcTick s).chg = s.chg ∧
    (rtcTick s).latch = s.latch ∧ (rtcTick s).mode = s.mode ∧ (rtcTick s).hold = s.hold ∧
    (rtcTick s).busop = s.busop ∧ (rtcTick s).opDone = s.opDone ∧ (rtcTick s).phase = s.phase ∧
    (rtcTick s).trace = s.trace ∧ (rtcTick s).bl = s.bl ∧ (rtcTick s).dig = s.dig ∧ (rtcTick s).lines = s.lines ∧
    (rtcTick s).rtcPtr = s.rtcPtr ∧ (rtcTick s).rtcSel = s.rtcSel ∧ (rtcTick s).responding = s.responding ∧
    (rtcTick s).inputs = s.inputs ∧ (rtcTick s).draws = s.draws := by
  unfold rtcTick rtcSetTime
  split_ifs <;> simp

@[simp] theorem emit_fields (e : BusEvent) (s : State) :
    (emit e s).par = s.par ∧ (emit e s).rx = s.rx ∧ (emit e s).tsec = s.tsec ∧ (emit e s).tmin = s.tmin ∧
    (emit e s).thrs = s.thrs ∧ (emit e s).wh = s.wh ∧ (emit e s).wm = s.wm ∧ (emit e s).pc = s.pc ∧
    (emit e s).cont = s.cont ∧ (emit e s).sp = s.sp ∧ (emit e s).lp = s.lp ∧ (emit e s).chg = s.chg ∧
    (emit e s).latch = s.latch ∧ (emit e s).mode = s.mode ∧ (emit e s).hold = s.hold ∧ (emit e s).busop = s.busop ∧
    (emit e s).opDone = s.opDone ∧ (emit e s).phase = s.phase ∧ (emit e s).trace = s.trace ++ [e] ∧
    (emit e s).bl = s.bl ∧ (emit e s).dig = s.dig ∧ (emit e s).lines = s.lines ∧ (emit e s).rtcMem = s.rtcMem ∧
    (emit e s).rtcPtr = s.rtcPtr ∧ (emit e s).rtcSel = s.rtcSel ∧ (emit e s).responding = s.responding ∧
    (emit e s).inputs = s.inputs ∧ (emit e s).draws = s.draws := by
  and_intros <;> rfl

@[simp] theorem handOver_fields (op : BusOp) (s : State) :
    (handOver op s).par = s.par ∧ (handOver op s).rx = s.rx ∧ (handOver op s).tsec = s.tsec ∧
    (handOver op s).tmin = s.tmin ∧ (handOver op s).thrs = s.thrs ∧ (handOver op s).wh = s.wh ∧
    (handOver op s).wm = s.wm ∧ (handOver op s).pc = s.pc ∧ (handOver op s).cont = s.cont ∧
    (handOver op s).sp = s.sp ∧ (handOver op s).lp = s.lp ∧ (handOver op s).chg = s.chg ∧
    (handOver op s).latch = s.latch ∧ (handOver op s).mode = s.mode ∧ (handOver op s).hold = s.hold ∧
    (handOver op s).busop = op ∧ (handOver op s).opDone = false ∧ (handOver op s).phase = s.phase ∧
    (handOver op s).trace = s.trace ∧ (handOver op s).bl = s.bl ∧ (handOver op s).dig = s.dig ∧
    (handOver op s).lines = s.lines ∧ (handOver op s).rtcMem = s.rtcMem ∧ (handOver op s).rtcPtr = s.rtcPtr ∧
    (handOver op s).rtcSel = s.rtcSel ∧ (handOver op s).responding = s.responding ∧
    (handOver op s).inputs = s.inputs ∧ (handOver op s).draws = s.draws := by
  and_intros <;> rfl

@[simp] theorem finishBusOp_fields (s : State) :
    (finishBusOp s).par = s.par ∧ (finishBusOp s).rx = s.rx ∧ (finishBusOp s).tsec = s.tsec ∧
    (finishBusOp s).tmin = s.tmin ∧ (finishBusOp s).thrs = s.thrs ∧ (finishBusOp s).wh = s.wh ∧
    (finishBusOp s).wm = s.wm ∧ (finishBusOp s).pc = s.pc ∧ (finishBusOp s).cont = s.cont ∧
    (finishBusOp s).sp = s.sp ∧ (finishBusOp s).lp = s.lp ∧ (finishBusOp s).chg = s.chg ∧
    (finishBusOp s).latch = s.latch ∧ (finishBusOp s).mode = s.mode ∧ (finishBusOp s).hold = s.hold ∧
    (finishBusOp s).busop = .none ∧ (finishBusOp s).opDone = true ∧ (finishBusOp s).phase = s.phase ∧
    (finishBusOp s).trace = s.trace ∧ (finishBusOp s).bl = s.bl ∧ (finishBusOp s).dig = s.dig ∧
    (finishBusOp s).lines = s.lines ∧ (finishBusOp s).rtcMem = s.rtcMem ∧ (finishBusOp s).rtcPtr = s.rtcPtr ∧
    (finishBusOp s).rtcSel = s.rtcSel ∧ (finishBusOp s).responding = s.responding ∧
    (finishBusOp s).inputs = s.inputs ∧ (finishBusOp s).draws = s.draws := by
  and_intros <;> rfl

@[simp] theorem receive_fields (d : Byte) (s : State) :
    (receive d s).par = s.par ∧ (receive d s).rx = d ∧ (receive d s).tsec = s.tsec ∧ (receive d s).tmin = s.tmin ∧
    (receive d s).thrs = s.thrs ∧ (receive d s).wh = s.wh ∧ (receive d s).wm = s.wm ∧ (receive d s).pc = s.pc ∧
    (receive d s).cont = s.cont ∧ (receive d s).sp = s.sp ∧ (receive d s).lp = s.lp ∧ (receive d s).chg = s.chg ∧
    (receive d s).latch = s.latch ∧ (receive d s).mode = s.mode ∧ (receive d s).hold = s.hold ∧
    (receive d s).busop = .none ∧ (receive d s).opDone = true ∧ (receive d s).phase = s.phase ∧
    (receive d s).trace = s.trace ++ [.rbyte d Config.rdAck] ∧ (receive d s).bl = s.bl ∧ (receive d s).dig = s.dig ∧
    (receive d s).lines = s.lines ∧ (receive d s).rtcMem = s.rtcMem ∧ (receive d s).rtcPtr = s.rtcPtr ∧
    (receive d s).rtcSel = s.rtcSel ∧ (receive d s).responding = s.responding ∧ (receive d s).inputs = s.inputs ∧
    (receive d s).draws = s.draws := by
  and_intros <;> rfl

@[simp] theorem storeDigit_fields (t : Fin 4) (v : Nibble) (s : State) :
    (storeDigit t v s).par = s.par ∧ (storeDigit t v s).rx = s.rx ∧ (storeDigit t v s).tsec = s.tsec ∧
    (storeDigit t v s).tmin = s.tmin ∧ (storeDigit t v s).thrs = s.thrs ∧ (storeDigit t v s).wh = s.wh ∧
    (storeDigit t v s).wm = s.wm ∧ (storeDigit t v s).pc = s.pc ∧ (storeDigit t v s).cont = s.cont ∧
    (storeDigit t v s).sp = s.sp ∧ (storeDigit t v s).lp = s.lp ∧ (storeDigit t v s).chg = s.chg ∧
    (storeDigit t v s).latch = s.latch ∧ (storeDigit t v s).mode = s.mode ∧ (storeDigit t v s).hold = s.hold ∧
    (storeDigit t v s).busop = s.busop ∧ (storeDigit t v s).opDone = s.opDone ∧ (storeDigit t v s).phase = s.phase ∧
    (storeDigit t v s).trace = s.trace ∧ (storeDigit t v s).bl = s.bl ∧ (storeDigit t v s).dig = s.dig.set t v ∧
    (storeDigit t v s).lines = s.lines ∧ (storeDigit t v s).rtcMem = s.rtcMem ∧
    (storeDigit t v s).rtcPtr = s.rtcPtr ∧ (storeDigit t v s).rtcSel = s.rtcSel ∧
    (storeDigit t v s).responding = s.responding ∧ (storeDigit t v s).inputs = s.inputs ∧
    (storeDigit t v s).draws = s.draws := by
  and_intros <;> rfl

@[simp] theorem driveLines_fields (s : State) :
    (driveLines s).par = s.par ∧ (driveLines s).rx = s.rx ∧ (driveLines s).tsec = s.tsec ∧
    (driveLines s).tmin = s.tmin ∧ (driveLines s).thrs = s.thrs ∧ (driveLines s).wh = s.wh ∧
    (driveLines s).wm = s.wm ∧ (driveLines s).pc = s.pc ∧ (driveLines s).cont = s.cont ∧ (driveLines s).sp = s.sp ∧
    (driveLines s).lp = s.lp ∧ (driveLines s).chg = s.chg ∧ (driveLines s).latch = s.latch ∧
    (driveLines s).mode = s.mode ∧ (driveLines s).hold = s.hold ∧ (driveLines s).busop = s.busop ∧
    (driveLines s).opDone = s.opDone ∧ (driveLines s).phase = s.phase ∧ (driveLines s).trace = s.trace ∧
    (driveLines s).bl = s.bl ∧ (driveLines s).dig = s.dig ∧
    (driveLines s).lines = (Quad.tabulate fun t => driveTube (s.par.tubeMap.get t) (s.dig.get t) (s.lines.get t)) ∧
    (driveLines s).rtcMem = s.rtcMem ∧ (driveLines s).rtcPtr = s.rtcPtr ∧ (driveLines s).rtcSel = s.rtcSel ∧
    (driveLines s).responding = s.responding ∧ (driveLines s).inputs = s.inputs ∧ (driveLines s).draws = s.draws := by
  and_intros <;> rfl

@[simp] theorem setBacklight_fields (on : Bool) (s : State) :
    (setBacklight on s).par = s.par ∧ (setBacklight on s).rx = s.rx ∧ (setBacklight on s).tsec = s.tsec ∧
    (setBacklight on s).tmin = s.tmin ∧ (setBacklight on s).thrs = s.thrs ∧ (setBacklight on s).wh = s.wh ∧
    (setBacklight on s).wm = s.wm ∧ (setBacklight on s).pc = s.pc ∧ (setBacklight on s).cont = s.cont ∧
    (setBacklight on s).sp = s.sp ∧ (setBacklight on s).lp = s.lp ∧ (setBacklight on s).chg = s.chg ∧
    (setBacklight on s).latch = s.latch ∧ (setBacklight on s).mode = s.mode ∧ (setBacklight on s).hold = s.hold ∧
    (setBacklight on s).busop = s.busop ∧ (setBacklight on s).opDone = s.opDone ∧
    (setBacklight on s).phase = s.phase ∧ (setBacklight on s).trace = s.trace ∧ (setBacklight on s).bl = on ∧
    (setBacklight on s).dig = s.dig ∧ (setBacklight on s).lines = s.lines ∧ (setBacklight on s).rtcMem = s.rtcMem ∧
    (setBacklight on s).rtcPtr = s.rtcPtr ∧ (setBacklight on s).rtcSel = s.rtcSel ∧
    (setBacklight on s).responding = s.responding ∧ (setBacklight on s).inputs = s.inputs ∧
    (setBacklight on s).draws = s.draws := by
  and_intros <;> rfl

@[simp] theorem loadTime_fields (r : TimeReg) (s : State) :
    (loadTime r s).par = s.par ∧ (loadTime r s).rx = s.rx ∧ (loadTime r s).wh = s.wh ∧ (loadTime r s).wm = s.wm ∧
    (loadTime r s).pc = s.pc ∧ (loadTime r s).cont = s.cont ∧ (loadTime r s).sp = s.sp ∧ (loadTime r s).lp = s.lp ∧
    (loadTime r s).chg = s.chg ∧ (loadTime r s).latch = s.latch ∧ (loadTime r s).mode = s.mode ∧
    (loadTime r s).hold = s.hold ∧ (loadTime r s).busop = s.busop ∧ (loadTime r s).opDone = s.opDone ∧
    (loadTime r s).phase = s.phase ∧ (loadTime r s).trace = s.trace ∧ (loadTime r s).bl = s.bl ∧
    (loadTime r s).dig = s.dig ∧ (loadTime r s).lines = s.lines ∧ (loadTime r s).rtcMem = s.rtcMem ∧
    (loadTime r s).rtcPtr = s.rtcPtr ∧ (loadTime r s).rtcSel = s.rtcSel ∧ (loadTime r s).responding = s.responding ∧
    (loadTime r s).inputs = s.inputs ∧ (loadTime r s).draws = s.draws := by
  cases r <;> simp [loadTime]

@[simp] theorem seedWorking_fields (s : State) :
    (seedWorking s).par = s.par ∧ (seedWorking s).rx = s.rx ∧ (seedWorking s).tsec = s.tsec ∧
    (seedWorking s).tmin = s.tmin ∧ (seedWorking s).thrs = s.thrs ∧ (seedWorking s).wh = bcd2dec s.thrs ∧
    (seedWorking s).wm = bcd2dec s.tmin ∧ (seedWorking s).pc = s.pc ∧ (seedWorking s).cont = s.cont ∧
    (seedWorking s).sp = s.sp ∧ (seedWorking s).lp = s.lp ∧ (seedWorking s).chg = false ∧
    (seedWorking s).latch = s.latch ∧ (seedWorking s).mode = 1#2 ∧ (seedWorking s).hold = s.hold ∧
    (seedWorking s).busop = s.busop ∧ (seedWorking s).opDone = s.opDone ∧ (seedWorking s).phase = s.phase ∧
    (seedWorking s).trace = s.trace ∧ (seedWorking s).bl = s.bl ∧ (seedWorking s).dig = s.dig ∧
    (seedWorking s).lines = s.lines ∧ (seedWorking s).rtcMem = s.rtcMem ∧ (seedWorking s).rtcPtr = s.rtcPtr ∧
    (seedWorking s).rtcSel = s.rtcSel ∧ (seedWorking s).responding = s.responding ∧
    (seedWorking s).inputs = s.inputs ∧ (seedWorking s).draws = s.draws := by
  and_intros <;> rfl

@[simp] theorem incHours_fields (s : State) :
    (incHours s).par = s.par ∧ (incHours s).rx = s.rx ∧ (incHours s).tsec = s.tsec ∧ (incHours s).tmin = s.tmin ∧
    (incHours s).thrs = s.thrs ∧ (incHours s).wh = wrapInc Config.hrsMax s.wh ∧ (incHours s).wm = s.wm ∧
    (incHours s).pc = s.pc ∧ (incHours s).cont = s.cont ∧ (incHours s).sp = s.sp ∧ (incHours s).lp = s.lp ∧
    (incHours s).chg = s.chg ∧ (incHours s).latch = s.latch ∧ (incHours s).mode = s.mode ∧
    (incHours s).hold = s.hold ∧ (incHours s).busop = s.busop ∧ (incHours s).opDone = s.opDone ∧
    (incHours s).phase = s.phase ∧ (incHours s).trace = s.trace ∧ (incHours s).bl = s.bl ∧ (incHours s).dig = s.dig ∧
    (incHours s).lines = s.lines ∧ (incHours s).rtcMem = s.rtcMem ∧ (incHours s).rtcPtr = s.rtcPtr ∧
    (incHours s).rtcSel = s.rtcSel ∧ (incHours s).responding = s.responding ∧ (incHours s).inputs = s.inputs ∧
    (incHours s).draws = s.draws := by
  and_intros <;> rfl

@[simp] theorem incMinutes_fields (s : State) :
    (incMinutes s).par = s.par ∧ (incMinutes s).rx = s.rx ∧ (incMinutes s).tsec = s.tsec ∧
    (incMinutes s).tmin = s.tmin ∧ (incMinutes s).thrs = s.thrs ∧ (incMinutes s).wh = s.wh ∧
    (incMinutes s).wm = wrapInc Config.minMax s.wm ∧ (incMinutes s).pc = s.pc ∧ (incMinutes s).cont = s.cont ∧
    (incMinutes s).sp = s.sp ∧ (incMinutes s).lp = s.lp ∧ (incMinutes s).chg = s.chg ∧
    (incMinutes s).latch = s.latch ∧ (incMinutes s).mode = s.mode ∧ (incMinutes s).hold = s.hold ∧
    (incMinutes s).busop = s.busop ∧ (incMinutes s).opDone = s.opDone ∧ (incMinutes s).phase = s.phase ∧
    (incMinutes s).trace = s.trace ∧ (incMinutes s).bl = s.bl ∧ (incMinutes s).dig = s.dig ∧
    (incMinutes s).lines = s.lines ∧ (incMinutes s).rtcMem = s.rtcMem ∧ (incMinutes s).rtcPtr = s.rtcPtr ∧
    (incMinutes s).rtcSel = s.rtcSel ∧ (incMinutes s).responding = s.responding ∧ (incMinutes s).inputs = s.inputs ∧
    (incMinutes s).draws = s.draws := by
  and_intros <;> rfl

@[simp] theorem storeMode_fields (m : BitVec 2) (s : State) :
    (storeMode m s).par = s.par ∧ (storeMode m s).rx = s.rx ∧ (storeMode m s).tsec = s.tsec ∧
    (storeMode m s).tmin = s.tmin ∧ (storeMode m s).thrs = s.thrs ∧ (storeMode m s).wh = s.wh ∧
    (storeMode m s).wm = s.wm ∧ (storeMode m s).pc = s.pc ∧ (storeMode m s).cont = s.cont ∧
    (storeMode m s).sp = s.sp ∧ (storeMode m s).lp = s.lp ∧ (storeMode m s).chg = s.chg ∧
    (storeMode m s).latch = s.latch ∧ (storeMode m s).mode = m ∧ (storeMode m s).hold = s.hold ∧
    (storeMode m s).busop = s.busop ∧ (storeMode m s).opDone = s.opDone ∧ (storeMode m s).phase = s.phase ∧
    (storeMode m s).trace = s.trace ∧ (storeMode m s).bl = s.bl ∧ (storeMode m s).dig = s.dig ∧
    (storeMode m s).lines = s.lines ∧ (storeMode m s).rtcMem = s.rtcMem ∧ (storeMode m s).rtcPtr = s.rtcPtr ∧
    (storeMode m s).rtcSel = s.rtcSel ∧ (storeMode m s).responding = s.responding ∧
    (storeMode m s).inputs = s.inputs ∧ (storeMode m s).draws = s.draws := by
  and_intros <;> rfl

@[simp] theorem advancePc_fields (s : State) :
    (advancePc s).par = s.par ∧ (advancePc s).rx = s.rx ∧ (advancePc s).tsec = s.tsec ∧ (advancePc s).tmin = s.tmin ∧
    (advancePc s).thrs = s.thrs ∧ (advancePc s).wh = s.wh ∧ (advancePc s).wm = s.wm ∧ (advancePc s).cont = [] ∧
    (advancePc s).sp = s.sp ∧ (advancePc s).lp = s.lp ∧ (advancePc s).chg = s.chg ∧ (advancePc s).latch = s.latch ∧
    (advancePc s).mode = s.mode ∧ (advancePc s).hold = s.hold ∧ (advancePc s).busop = s.busop ∧
    (advancePc s).opDone = s.opDone ∧ (advancePc s).phase = s.phase ∧ (advancePc s).trace = s.trace ∧
    (advancePc s).bl = s.bl ∧ (advancePc s).dig = s.dig ∧ (advancePc s).lines = s.lines ∧
    (advancePc s).rtcMem = s.rtcMem ∧ (advancePc s).rtcPtr = s.rtcPtr ∧ (advancePc s).rtcSel = s.rtcSel ∧
    (advancePc s).responding = s.responding ∧ (advancePc s).inputs = s.inputs ∧ (advancePc s).draws = s.draws := by
  unfold advancePc
  split_ifs <;> simp

@[simp] theorem goOn_fields (rest : List MicroStep) (s : State) :
    (goOn rest s).par = s.par ∧ (goOn rest s).rx = s.rx ∧ (goOn rest s).tsec = s.tsec ∧ (goOn rest s).tmin = s.tmin ∧
    (goOn rest s).thrs = s.thrs ∧ (goOn rest s).wh = s.wh ∧ (goOn rest s).wm = s.wm ∧ (goOn rest s).cont = rest ∧
    (goOn rest s).sp = s.sp ∧ (goOn rest s).lp = s.lp ∧ (goOn rest s).chg = s.chg ∧ (goOn rest s).latch = s.latch ∧
    (goOn rest s).mode = s.mode ∧ (goOn rest s).hold = s.hold ∧ (goOn rest s).busop = s.busop ∧
    (goOn rest s).opDone = s.opDone ∧ (goOn rest s).phase = s.phase ∧ (goOn rest s).trace = s.trace ∧
    (goOn rest s).bl = s.bl ∧ (goOn rest s).dig = s.dig ∧ (goOn rest s).lines = s.lines ∧
    (goOn rest s).rtcMem = s.rtcMem ∧ (goOn rest s).rtcPtr = s.rtcPtr ∧ (goOn rest s).rtcSel = s.rtcSel ∧
    (goOn rest s).responding = s.responding ∧ (goOn rest s).inputs = s.inputs ∧ (goOn rest s).draws = s.draws := by
  cases rest <;> simp [goOn]

@[simp] theorem dropMove_fields (s : State) :
    (dropMove s).par = s.par ∧ (dropMove s).rx = s.rx ∧ (dropMove s).tsec = s.tsec ∧ (dropMove s).tmin = s.tmin ∧
    (dropMove s).thrs = s.thrs ∧ (dropMove s).wh = s.wh ∧ (dropMove s).wm = s.wm ∧ (dropMove s).pc = s.pc ∧
    (dropMove s).cont = s.cont ∧ (dropMove s).sp = s.sp ∧ (dropMove s).lp = s.lp ∧ (dropMove s).chg = s.chg ∧
    (dropMove s).latch = s.latch ∧ (dropMove s).mode = s.mode ∧ (dropMove s).hold = s.hold ∧
    (dropMove s).busop = s.busop ∧ (dropMove s).opDone = s.opDone ∧ (dropMove s).phase = s.phase ∧
    (dropMove s).trace = s.trace ∧ (dropMove s).bl = s.bl ∧ (dropMove s).dig = s.dig ∧ (dropMove s).lines = s.lines ∧
    (dropMove s).rtcMem = s.rtcMem ∧ (dropMove s).rtcPtr = s.rtcPtr ∧ (dropMove s).rtcSel = s.rtcSel ∧
    (dropMove s).responding = s.responding := by
  unfold dropMove
  split <;> simp

@[simp] theorem completeBusOp_fields (ans : BusAnswer) (s : State) :
    (completeBusOp ans s).par = s.par ∧ (completeBusOp ans s).tsec = s.tsec ∧ (completeBusOp ans s).tmin = s.tmin ∧
    (completeBusOp ans s).thrs = s.thrs ∧ (completeBusOp ans s).wh = s.wh ∧ (completeBusOp ans s).wm = s.wm ∧
    (completeBusOp ans s).pc = s.pc ∧ (completeBusOp ans s).cont = s.cont ∧ (completeBusOp ans s).sp = s.sp ∧
    (completeBusOp ans s).lp = s.lp ∧ (completeBusOp ans s).chg = s.chg ∧ (completeBusOp ans s).latch = s.latch ∧
    (completeBusOp ans s).mode = s.mode ∧ (completeBusOp ans s).hold = s.hold ∧ (completeBusOp ans s).bl = s.bl ∧
    (completeBusOp ans s).dig = s.dig ∧ (completeBusOp ans s).lines = s.lines ∧
    (completeBusOp ans s).responding = s.responding ∧ (completeBusOp ans s).inputs = s.inputs ∧
    (completeBusOp ans s).draws = s.draws := by
  unfold completeBusOp
  split_ifs
  · split <;> cases ans <;> simp [completeStart, completeWrite, completeRead]
  · simp

end Sys2Proof.Machine
end

