-- ==== Sys2Proof/Laws/Display.lean ====
section
/-! SUPPORT. Driving the lines of a legal instance: the result is the image of the slots, whatever the lines were (43_displaydriver.md R182). -/

namespace Sys2Proof.Machine

/-- Under a bijective wiring the lines of one tube no longer depend on what they were. -/
theorem driveTube_eq_lineImage (m : Quad (Fin 4)) (v : Nibble) (old : Quad Bool) (h : tubeWf m = true) :
    driveTube m v old = lineImage m v := by
  obtain ⟨a, b, c, d⟩ := m
  obtain ⟨p, q, r, t⟩ := old
  simp only [tubeWf, driveTube, lineImage, Quad.tabulate, Quad.get] at h ⊢
  generalize v.getLsbD 0 = v0
  generalize v.getLsbD 1 = v1
  generalize v.getLsbD 2 = v2
  generalize v.getLsbD 3 = v3
  fin_cases a <;> fin_cases b <;> fin_cases c <;> fin_cases d <;> simp [Quad.set] at h ⊢

/-- Every tube of a legal instance is wired by a bijection (43_displaydriver.md R183). -/
theorem Params.wf_tube (p : Params) (h : p.wf = true) (t : Fin 4) : tubeWf (p.tubeMap.get t) = true := by
  simp only [Params.wf, Bool.and_eq_true] at h
  obtain ⟨⟨⟨⟨-, h0⟩, h1⟩, h2⟩, h3⟩ := h
  fin_cases t <;> assumption

/-- The two device address bytes of a legal instance differ (00_scope.md R6). -/
theorem Params.wf_sla (p : Params) (h : p.wf = true) : p.slaR ≠ p.slaW := by
  simp only [Params.wf, Bool.and_eq_true, bne_iff_ne] at h
  exact h.1.1.1.1

/-- REFRESH on a legal instance, as one record update. -/
theorem driveLines_eq (s : State) (h : s.par.wf = true) : driveLines s = { s with lines := linesOf s.par s.dig } := by
  simp only [driveLines, linesOf]
  congr 1
  apply Quad.eq_of_get
  intro i
  simp [driveTube_eq_lineImage _ _ _ (s.par.wf_tube h i)]

end Sys2Proof.Machine
end

