-- ==== Sys2Proof/Laws/Memory.lean ====
section
/-! SUPPORT. The RTC registers: read after write, and the canonical form every operation keeps. -/

namespace Sys2Proof.Machine

/-- An address below every listed one reads as unlisted. -/
theorem Memory.read_below (m : Memory) (a : Nat) (h : m.all (fun c => decide (a < c.1)) = true) :
    m.read a = Memory.unlisted := by
  induction m with
  | nil => rfl
  | cons c rest ih =>
    simp only [List.all_cons, Bool.and_eq_true, decide_eq_true_eq] at h
    rw [Memory.read, if_neg (by omega)]
    exact ih h.2

theorem Memory.wf_cons (k : Nat) (v : Byte) (rest : Memory) :
    Memory.wf ((k, v) :: rest) = true ↔
      k < 256 ∧ v ≠ Memory.unlisted ∧ (∀ c ∈ rest, k < c.1) ∧ Memory.wf rest = true := by
  simp [Memory.wf, and_assoc]

/-- A read after a write gives the value at the written address and the old byte everywhere else. -/
theorem Memory.read_write (m : Memory) (a b : Nat) (v : Byte) (hm : m.wf = true) :
    (m.write a v).read b = if b = a then v else m.read b := by
  induction m with
  | nil =>
    by_cases hv : v = Memory.unlisted <;> by_cases hb : b = a <;>
      simp [Memory.write, Memory.read, hv, hb]
    exact fun e => absurd e.symm hb
  | cons c rest ih =>
    obtain ⟨k, w⟩ := c
    obtain ⟨-, hw, hlt, hrest⟩ := (Memory.wf_cons k w rest).1 hm
    have hbelow : ∀ x, x ≤ k → Memory.read rest x = Memory.unlisted := fun x hx =>
      Memory.read_below rest x (by
        simp only [List.all_eq_true, decide_eq_true_eq]
        exact fun c hc => lt_of_le_of_lt hx (hlt c hc))
    rcases lt_trichotomy a k with h | h | h
    · by_cases hv : v = Memory.unlisted <;> by_cases hb : b = a
      · subst hb; simp [Memory.write, Memory.read, h, hv, hbelow b h.le]; omega
      · simp [Memory.write, Memory.read, h, hv, hb]
      · simp [Memory.write, Memory.read, h, hv, hb]
      · have : ¬ a = b := fun e => hb e.symm
        simp [Memory.write, Memory.read, h, hv, hb, this]
    · subst h
      by_cases hv : v = Memory.unlisted <;> by_cases hb : b = a
      · subst hb; simp [Memory.write, hv, hbelow b le_rfl]
      · have : ¬ a = b := fun e => hb e.symm
        simp [Memory.write, Memory.read, hv, hb, this]
      · simp [Memory.write, Memory.read, hv, hb]
      · have : ¬ a = b := fun e => hb e.symm
        simp [Memory.write, Memory.read, hv, hb, this]
    · have h1 : ¬ a < k := by omega
      have h2 : ¬ a = k := by omega
      by_cases hb : k = b
      · subst hb
        simp [Memory.write, Memory.read, h1, h2, Ne.symm h2]
      · simp [Memory.write, Memory.read, h1, h2, hb, ih hrest]

/-- Every listed address after a write was listed before or is the written one. -/
theorem Memory.mem_write (m : Memory) (a : Nat) (v : Byte) (c : Host.Cell) (h : c ∈ m.write a v) :
    c ∈ m ∨ c.1 = a := by
  induction m with
  | nil =>
    by_cases hv : v = Memory.unlisted <;> simp [Memory.write, hv] at h
    simp [h]
  | cons d rest ih =>
    obtain ⟨k, w⟩ := d
    rw [Memory.write] at h
    split_ifs at h
    · exact Or.inl h
    · rcases List.mem_cons.1 h with h | h
      · exact Or.inr (by rw [h])
      · exact Or.inl h
    · exact Or.inl (List.mem_cons_of_mem _ h)
    · rcases List.mem_cons.1 h with h | h
      · exact Or.inr (by rw [h])
      · exact Or.inl (List.mem_cons_of_mem _ h)
    · rcases List.mem_cons.1 h with h | h
      · exact Or.inl (by rw [h]; exact List.mem_cons_self ..)
      · exact (ih h).imp (List.mem_cons_of_mem _) id

/-- A write keeps the canonical form. -/
theorem Memory.write_wf (m : Memory) (a : Nat) (v : Byte) (hm : m.wf = true) (ha : a < 256) :
    (m.write a v).wf = true := by
  induction m with
  | nil =>
    by_cases hv : v = Memory.unlisted
    · simp [Memory.write, hv, Memory.wf]
    · simp [Memory.write, hv, Memory.wf, ha]
  | cons c rest ih =>
    obtain ⟨k, w⟩ := c
    obtain ⟨hk, hw, hlt, hrest⟩ := (Memory.wf_cons k w rest).1 hm
    rw [Memory.write]
    split_ifs with h1 h2 h3 h4
    · exact hm
    · refine (Memory.wf_cons a v _).2 ⟨ha, h2, fun c hc => ?_, hm⟩
      rcases List.mem_cons.1 hc with rfl | hc
      · exact h1
      · exact lt_trans h1 (hlt c hc)
    · exact hrest
    · exact (Memory.wf_cons a v _).2 ⟨ha, h4, fun c hc => h3 ▸ hlt c hc, hrest⟩
    · refine (Memory.wf_cons k w _).2 ⟨hk, hw, fun c hc => ?_, ih hrest⟩
      rcases Memory.mem_write rest a v c hc with hc | hc
      · exact hlt c hc
      · omega

/-- Reset's memory is in canonical form. -/
theorem reset_memory_wf : State.reset.rtcMem.wf = true := rfl

theorem rtcRead_rtcWrite (a v b : Byte) (s : State) (h : s.rtcMem.wf = true) :
    rtcRead (rtcWrite a v s) b = if b = a then v else rtcRead s b := by
  simp [rtcRead, rtcWrite_fields, Memory.read_write _ _ _ _ h, BitVec.toNat_inj]

theorem rtcWrite_wf (a v : Byte) (s : State) (h : s.rtcMem.wf = true) : (rtcWrite a v s).rtcMem.wf = true := by
  simpa using Memory.write_wf _ _ v h a.isLt

theorem rtcSetTime_wf (h m sec : Byte) (s : State) (hs : s.rtcMem.wf = true) :
    (rtcSetTime h m sec s).rtcMem.wf = true :=
  rtcWrite_wf _ _ _ (rtcWrite_wf _ _ _ (rtcWrite_wf _ _ _ hs))

theorem rtcTick_wf (s : State) (hs : s.rtcMem.wf = true) : (rtcTick s).rtcMem.wf = true := by
  unfold rtcTick
  split_ifs
  · exact rtcSetTime_wf _ _ _ s hs
  · exact hs

theorem deviceByte_wf (b : Byte) (s : State) (hs : s.rtcMem.wf = true) : (deviceByte b s).rtcMem.wf = true := by
  unfold deviceByte
  split <;> (try split_ifs) <;> first | exact hs | exact rtcWrite_wf _ _ _ hs

theorem completeBusOp_wf (ans : BusAnswer) (s : State) (hs : s.rtcMem.wf = true) :
    (completeBusOp ans s).rtcMem.wf = true := by
  unfold completeBusOp
  split_ifs
  · split <;> cases ans <;> simp [completeStart, completeWrite, completeRead, hs, deviceByte_wf]
  · exact hs

end Sys2Proof.Machine
end

