-- ==== Sys2Proof/Laws/Ops.lean ====
section
/-! SUPPORT. What each shared operation can do, said once: register actions, micro-steps, moves, and lists of moves. -/

namespace Sys2Proof.Machine

/-! ### Going on -/

@[simp] theorem goOn_nil (s : State) : goOn [] s = advancePc s := rfl

@[simp] theorem goOn_cons (m : MicroStep) (rest : List MicroStep) (s : State) :
    goOn (m :: rest) s = { s with cont := m :: rest } := rfl

/-- `pc` after an operation is a function of `pc` and PROGRAM. -/
theorem advancePc_pc (s : State) :
    (advancePc s).pc = if s.pc + 1 = s.par.program.length ∧ s.par.loops = true then 0 else s.pc + 1 := by
  unfold advancePc
  split_ifs <;> rfl

/-! ### One sample of the button -/

/-- A pressed sample counts up to 100 (42_inputdebouncer.md R160). -/
theorem sampleButton_pressed (s : State) :
    sampleButton .pressed s = if s.hold.toNat < 100 then { s with hold := s.hold + 1#7 } else s := rfl

/-- A released sample as one record update: zero the counter, set at most one flag, clear none (42_inputdebouncer.md R160). -/
theorem sampleButton_released (s : State) :
    sampleButton .released s = { s with
      hold := 0#7
      sp := s.sp || (decide (2 ≤ s.hold.toNat) && decide (s.hold.toNat ≤ 19))
      lp := s.lp || decide (30 < s.hold.toNat) } := by
  show (if s.hold = 0#7 then s else
    if s.hold.toNat < 2 then { s with hold := 0#7 }
    else if s.hold.toNat ≤ 19 then { s with hold := 0#7, sp := true }
    else if s.hold.toNat ≤ 30 then { s with hold := 0#7 }
    else { s with hold := 0#7, lp := true }) = _
  split_ifs with h0 h1 h2 h3
  · obtain ⟨par, rx, tsec, tmin, thrs, wh, wm, pc, cont, sp, lp, chg, latch, mode, hold, busop, opDone, phase, trace, bl,
      dig, lines, rtcMem, rtcPtr, rtcSel, responding, inputs, draws⟩ := s
    simp at h0; subst h0; simp
  · have h4 : ¬ 2 ≤ s.hold.toNat := by omega
    have h5 : ¬ 30 < s.hold.toNat := by omega
    simp [h4, h5]
  · have h4 : 2 ≤ s.hold.toNat := by omega
    have h5 : ¬ 30 < s.hold.toNat := by omega
    simp [h2, h4, h5]
  · have h5 : ¬ 30 < s.hold.toNat := by omega
    simp [h2, h5]
  · have h5 : 30 < s.hold.toNat := by omega
    simp [h2, h5]

/-! ### Register actions -/

/-- What no register action of the main context writes (10_state.md R52). -/
theorem performAction_frame (a : Action) (s s' : State) (h : performAction a s = .ok s') :
    s'.par = s.par ∧ s'.pc = s.pc ∧ s'.cont = s.cont ∧ s'.hold = s.hold ∧ s'.rx = s.rx ∧ s'.rtcMem = s.rtcMem ∧
    s'.rtcPtr = s.rtcPtr ∧ s'.responding = s.responding ∧ s'.inputs = s.inputs ∧ s'.draws = s.draws ∧
    (s'.sp = true → s.sp = true) ∧ (s'.lp = true → s.lp = true) := by
  cases a <;> simp only [performAction, issue, stopBus] at h <;>
    (try split at h) <;> (try split at h) <;> (try split at h) <;>
    first
    | contradiction
    | (cases h; simp)

/-- An issue, when it is legal, hands its operation over and changes nothing else. -/
theorem performAction_issue (c : BusCmd) (s s' : State) (h : performAction (.issue c) s = .ok s') :
    s.busop = .none ∧ ((c = .start ∧ s' = handOver .start s) ∨
      (∃ a, c = .write a ∧ s.phase = .active ∧ s' = handOver (.write (byteArg a s)) s) ∨
      (c = .read ∧ s.phase = .active ∧ s' = handOver .read s)) := by
  cases c <;> simp only [performAction, issue] at h <;> (try split at h) <;> (try split at h) <;>
    first
    | contradiction
    | (cases h; simp_all)

/-- An action that is no issue leaves BUSOP and DONE alone. -/
theorem performAction_bus (a : Action) (s s' : State) (h : performAction a s = .ok s')
    (ha : ∀ c, a ≠ .issue c) : s'.busop = s.busop ∧ s'.opDone = s.opDone := by
  cases a <;> simp only [performAction, stopBus] at h <;>
    (try split at h) <;>
    first
    | contradiction
    | exact absurd rfl (ha _)
    | (cases h; simp)

/-- Where a register action may write MODE, and what (44_modecontroller.md R215). -/
theorem performAction_mode (a : Action) (s s' : State) (h : performAction a s = .ok s') :
    (a = .seed ∧ s'.mode = 1#2) ∨ (a = .toMinutes ∧ s'.mode = 2#2) ∨ (a = .toClock ∧ s'.mode = 0#2) ∨
    s'.mode = s.mode := by
  cases a <;> simp only [performAction, issue, stopBus] at h <;>
    (try split at h) <;> (try split at h) <;> (try split at h) <;>
    first
    | contradiction
    | (cases h; simp)

/-! ### Micro-steps -/

/-- Every micro-step that answers a next state: an action, an await taken or still blocked, or a conditional. -/
theorem runMicro_next (m : MicroStep) (rest : List MicroStep) (s s' : State) (h : runMicro m rest s = .next s') :
    (∃ a s1, m = .act a ∧ performAction a s = .ok s1 ∧ s' = goOn rest s1) ∨
    (m = .await ∧ s.opDone = true ∧ s' = goOn rest { s with opDone := false }) ∨
    (m = .await ∧ s.opDone = false ∧ s' = s) ∨
    (∃ c b, m = .ifSet c b ∧ s' = goOn ((if condHolds c s then blockSteps b else []) ++ rest) s) := by
  cases m with
  | act a =>
    simp only [runMicro] at h
    split at h
    · cases h; exact .inl ⟨a, _, rfl, ‹_›, rfl⟩
    · cases h
  | await =>
    simp only [runMicro] at h
    split at h
    · cases h; exact .inr (.inl ⟨rfl, ‹_›, rfl⟩)
    · rename_i hd
      cases h; exact .inr (.inr (.inl ⟨rfl, by simpa using hd, rfl⟩))
  | ifSet c b =>
    cases h; exact .inr (.inr (.inr ⟨c, b, rfl, rfl⟩))

/-- A micro-step that is refused is an action that is refused. -/
theorem runMicro_refused (m : MicroStep) (rest : List MicroStep) (s : State) (r : Refusal)
    (h : runMicro m rest s = .refused r) : ∃ a, m = .act a ∧ performAction a s = .error r := by
  cases m with
  | act a =>
    simp only [runMicro] at h
    split at h
    · cases h
    · cases h; exact ⟨a, rfl, ‹_›⟩
  | await =>
    simp only [runMicro] at h
    split at h <;> cases h
  | ifSet c b => cases h

/-! ### Lists of moves -/

@[simp] theorem runMoves_nil (s : State) : runMoves [] s = .next s := rfl

theorem runMoves_cons_next (m : Move) (rest : List Move) (s s1 : State) (h : makeMove m s = .next s1) :
    runMoves (m :: rest) s = runMoves rest s1 := by
  simp [runMoves, h]

/-- A list of moves is run by running its first part and then the second. -/
theorem runMoves_append (a b : List Move) (s s1 : State) (h : runMoves a s = .next s1) :
    runMoves (a ++ b) s = runMoves b s1 := by
  induction a generalizing s with
  | nil => cases h; rfl
  | cons m rest ih =>
    simp only [runMoves] at h
    rw [List.cons_append, runMoves]
    split at h
    · rename_i s2 hs
      simp [ih s2 h]
    · cases h
    · cases h

theorem makeMove_main_cons (s : State) (m : MicroStep) (rest : List MicroStep) (h : s.cont = m :: rest) :
    makeMove .main s = runMicro m rest s := by
  simp [makeMove, mainStep, h]

/-- The main context at a completed await goes on. -/
theorem makeMove_main_await (s : State) (rest : List MicroStep) (h : s.cont = .await :: rest) (hd : s.opDone = true) :
    makeMove .main s = .next (goOn rest { s with opDone := false }) := by
  rw [makeMove_main_cons s _ _ h]
  simp [runMicro, hd]

/-- The main context at a register action performs it and goes on. -/
theorem makeMove_main_act (s s1 : State) (a : Action) (rest : List MicroStep) (h : s.cont = .act a :: rest)
    (ha : performAction a s = .ok s1) : makeMove .main s = .next (goOn rest s1) := by
  rw [makeMove_main_cons s _ _ h]
  simp [runMicro, ha]

/-- A completion while the environment answers ends the operation in flight and leaves the main context where it is (40_timebus.md R124). -/
theorem completeBusOp_done (ans : BusAnswer) (s : State) (hr : s.responding = true) (hb : s.busop ≠ .none) :
    (completeBusOp ans s).busop = .none ∧ (completeBusOp ans s).opDone = true ∧ (completeBusOp ans s).cont = s.cont := by
  refine ⟨?_, ?_, by simp⟩ <;> cases hbb : s.busop <;> cases ans <;>
    simp_all [completeBusOp, completeStart, completeWrite, completeRead]

/-- An issue that has just been made, its completion, and its await. -/
theorem runMoves_complete_await (s : State) (ans : BusAnswer) (rest : List MicroStep) (ms : List Move)
    (h : s.cont = .await :: rest) (hd : (completeBusOp ans s).opDone = true) :
    runMoves (.complete ans :: .main :: ms) s = runMoves ms (goOn rest { completeBusOp ans s with opDone := false }) := by
  rw [runMoves_cons_next _ _ _ _ rfl, runMoves_cons_next _ _ _ _ (makeMove_main_await _ rest (by simp [h]) hd)]

end Sys2Proof.Machine
end

