-- ==== Sys2Proof/Laws/Exec.lean ====
section
/-! SUPPORT. Every operation but TICK enters an expansion (10_state.md R31): which one, and what every expansion has in common. -/

namespace Sys2Proof.Machine

/-- The body MODE selects; none for 3 (44_modecontroller.md R200). -/
def modeBody (s : State) : List MicroStep :=
  match s.mode with
  | 0#2 => clockBody
  | 1#2 => hoursBody s.par.blankPush
  | 2#2 => minutesBody s.par.blankPush
  | 3#2 => []

/-- The four values of MODE and the body each selects. -/
theorem mode_cases (s : State) :
    (s.mode = 0#2 ∧ modeBody s = clockBody) ∨ (s.mode = 1#2 ∧ modeBody s = hoursBody s.par.blankPush) ∨
    (s.mode = 2#2 ∧ modeBody s = minutesBody s.par.blankPush) ∨ (s.mode = 3#2 ∧ modeBody s = []) := by
  have h4 : ∀ m : BitVec 2, m = 0#2 ∨ m = 1#2 ∨ m = 2#2 ∨ m = 3#2 := by decide
  rcases h4 s.mode with h | h | h | h <;> simp [modeBody, h]

/-- `expand` of 10_state.md R31; TICK has none, it is the tick context's. -/
def expansionOf (i : Instr) (s : State) : List MicroStep :=
  match i with
  | .start => startSteps
  | .stop => stopSteps
  | .wrbyte a => sendSteps (.lit a)
  | .rdbyte => receiveSteps
  | .rdreg a => readRegSteps (.lit a)
  | .wrreg a b => writeRegSteps (.lit a) (.lit b)
  | .rdtime => readTimeSteps
  | .wrtime a b c => writeTimeSteps (.lit a) (.lit b) (.lit c)
  | .tick _ => []
  | .tstsp => [.act .tstSp]
  | .clrsp => [.act .clrSp]
  | .tstlp => [.act .tstLp]
  | .clrlp => [.act .clrLp]
  | .setdig t v => [.act (.setDig t (.lit v))]
  | .refresh => [.act .refresh]
  | .displ n => displayLeftSteps (.lit (n.setWidth 8))
  | .dispr n => displayRightSteps (.lit (n.setWidth 8))
  | .blon => [.act .blOn]
  | .bloff => [.act .blOff]
  | .bltog => [.act .blToggle]
  | .modestep => modeBody s

/-- What `exec` does: a TICK samples, MODESTEP refuses MODE 3, everything else enters its expansion. -/
theorem exec_cases (i : Instr) (s : State) :
    (∃ level, i = .tick level ∧ exec i s = .next (advancePc (takeTick level s))) ∨
    (i = .modestep ∧ s.mode = 3#2 ∧ exec i s = .refused .modeUnused) ∨
    ((∀ level, i ≠ .tick level) ∧ expansionOf i s ≠ [] ∧ exec i s = enter (expansionOf i s) s) := by
  cases i with
  | tick level => exact .inl ⟨level, rfl, rfl⟩
  | modestep =>
    rcases mode_cases s with ⟨h, hb⟩ | ⟨h, hb⟩ | ⟨h, hb⟩ | ⟨h, -⟩
    · exact .inr (.inr ⟨by simp, by rw [expansionOf, hb]; simp [clockBody, readTimeSteps, readRegSteps, startSteps],
        by simp [exec, execModestep, h, expansionOf, hb]⟩)
    · exact .inr (.inr ⟨by simp, by rw [expansionOf, hb]; simp [hoursBody, displayLeftSteps],
        by simp [exec, execModestep, h, expansionOf, hb]⟩)
    · exact .inr (.inr ⟨by simp, by rw [expansionOf, hb]; simp [minutesBody, displayRightSteps],
        by simp [exec, execModestep, h, expansionOf, hb]⟩)
    · exact .inr (.inl ⟨rfl, h, by simp [exec, execModestep, h]⟩)
  | start => exact .inr (.inr ⟨by simp, by simp [expansionOf, startSteps], rfl⟩)
  | stop => exact .inr (.inr ⟨by simp, by simp [expansionOf, stopSteps], rfl⟩)
  | wrbyte a => exact .inr (.inr ⟨by simp, by simp [expansionOf, sendSteps], rfl⟩)
  | rdbyte => exact .inr (.inr ⟨by simp, by simp [expansionOf, receiveSteps], rfl⟩)
  | rdreg a => exact .inr (.inr ⟨by simp, by simp [expansionOf, readRegSteps, startSteps], rfl⟩)
  | wrreg a b => exact .inr (.inr ⟨by simp, by simp [expansionOf, writeRegSteps, startSteps], rfl⟩)
  | rdtime => exact .inr (.inr ⟨by simp, by simp [expansionOf, readTimeSteps, readRegSteps, startSteps], rfl⟩)
  | wrtime a b c => exact .inr (.inr ⟨by simp, by simp [expansionOf, writeTimeSteps, writeRegSteps, startSteps], rfl⟩)
  | tstsp => exact .inr (.inr ⟨by simp, by simp [expansionOf], rfl⟩)
  | clrsp => exact .inr (.inr ⟨by simp, by simp [expansionOf], rfl⟩)
  | tstlp => exact .inr (.inr ⟨by simp, by simp [expansionOf], rfl⟩)
  | clrlp => exact .inr (.inr ⟨by simp, by simp [expansionOf], rfl⟩)
  | setdig t v => exact .inr (.inr ⟨by simp, by simp [expansionOf], rfl⟩)
  | refresh => exact .inr (.inr ⟨by simp, by simp [expansionOf], rfl⟩)
  | displ n => exact .inr (.inr ⟨by simp, by simp [expansionOf, displayLeftSteps], rfl⟩)
  | dispr n => exact .inr (.inr ⟨by simp, by simp [expansionOf, displayRightSteps], rfl⟩)
  | blon => exact .inr (.inr ⟨by simp, by simp [expansionOf], rfl⟩)
  | bloff => exact .inr (.inr ⟨by simp, by simp [expansionOf], rfl⟩)
  | bltog => exact .inr (.inr ⟨by simp, by simp [expansionOf], rfl⟩)

/-- Every expansion pairs its issues with awaits and begins with an action that does not write MODE. -/
theorem expansion_shape (i : Instr) (s : State) :
    pairedSteps (expansionOf i s) = true ∧
    ∀ m rest, expansionOf i s = m :: rest → ∃ a, m = .act a ∧ a ≠ .seed ∧ a ≠ .toMinutes ∧ a ≠ .toClock := by
  cases i <;> (try (refine ⟨rfl, ?_⟩; intro m rest h; cases h; exact ⟨_, rfl, by simp, by simp, by simp⟩))
  case tick => exact ⟨rfl, fun m rest h => by cases h⟩
  case modestep =>
    rw [expansionOf]
    rcases mode_cases s with ⟨-, hb⟩ | ⟨-, hb⟩ | ⟨-, hb⟩ | ⟨-, hb⟩ <;> rw [hb]
    · exact ⟨by decide, fun m rest h => by cases h; exact ⟨_, rfl, by simp, by simp, by simp⟩⟩
    · cases s.par.blankPush <;>
        exact ⟨by decide, fun m rest h => by cases h; exact ⟨_, rfl, by simp, by simp, by simp⟩⟩
    · cases s.par.blankPush <;>
        exact ⟨by decide, fun m rest h => by cases h; exact ⟨_, rfl, by simp, by simp, by simp⟩⟩
    · exact ⟨rfl, fun m rest h => by cases h⟩

/-- The body of every conditional pairs its issues with awaits. -/
theorem block_paired (b : Block) : pairedSteps (blockSteps b) = true := by
  cases b <;> decide

/-- Pairing is kept by putting two sequences together. -/
theorem pairedSteps_append (a b : List MicroStep) (ha : pairedSteps a = true) (hb : pairedSteps b = true) :
    pairedSteps (a ++ b) = true := by
  fun_induction pairedSteps a <;> simp_all [pairedSteps]

/-- A move of the main context that answers a next state: finished, a TICK of PROGRAM, or one micro-step. -/
theorem mainStep_next (s s' : State) (h : mainStep s = .next s') :
    (s.cont = [] ∧ s' = s) ∨
    (s.cont = [] ∧ ∃ level w, fetchWord s = some w ∧ decode w = .ok (.tick level) ∧ s' = advancePc (takeTick level s)) ∨
    (∃ m rest, runMicro m rest s = .next s' ∧
      (s.cont = m :: rest ∨ (s.cont = [] ∧ ∃ i w, fetchWord s = some w ∧ decode w = .ok i ∧ expansionOf i s = m :: rest))) := by
  unfold mainStep at h
  split at h
  · rename_i hc
    unfold fetchStep at h
    split at h
    · cases h; exact .inl ⟨hc, rfl⟩
    · rename_i w hw
      split at h
      · rename_i i hd
        rcases exec_cases i s with ⟨l, rfl, he⟩ | ⟨-, -, he⟩ | ⟨-, hne, he⟩
        · rw [he] at h; cases h
          exact .inr (.inl ⟨hc, l, w, hw, hd, rfl⟩)
        · rw [he] at h; cases h
        · rw [he] at h
          cases hx : expansionOf i s with
          | nil => exact absurd hx hne
          | cons m rest =>
            rw [hx] at h
            exact .inr (.inr ⟨m, rest, h, .inr ⟨hc, i, w, hw, hd, hx⟩⟩)
      · cases h
  · rename_i m rest hc
    exact .inr (.inr ⟨m, rest, h, .inl hc⟩)

end Sys2Proof.Machine
end

