-- ==== Sys2Proof/Laws/Composite.lean ====
section
/-! SUPPORT. Running pending micro-steps one by one, and the two bus composites as one step each under a responding device
(41_rtcdevice.md R140, R142). -/

namespace Sys2Proof.Machine

/-! ### One micro-step after another -/

/-- Going on forgets what was pending before. -/
theorem goOn_cont (rest : List MicroStep) (s : State) (c : List MicroStep) :
    goOn rest { s with cont := c } = goOn rest s := by
  cases rest with
  | nil => simp only [goOn, advancePc]
  | cons => rfl

/-- A register action does not look at what is pending. -/
theorem performAction_cont (a : Action) (s s1 : State) (c : List MicroStep) (h : performAction a s = .ok s1) :
    performAction a { s with cont := c } = .ok { s1 with cont := c } := by
  cases a
  case issue o =>
    cases o <;> simp only [performAction, issue] at h ⊢ <;> (try split_ifs at h ⊢) <;> cases h <;> rfl
  case stop =>
    simp only [performAction, stopBus] at h ⊢
    split_ifs at h ⊢
    cases h; rfl
  case setDig t v =>
    have hv : digArg v { s with cont := c } = digArg v s := by
      cases v with
      | lit => rfl
      | hi r => cases r <;> rfl
      | lo r => cases r <;> rfl
      | tens n => cases n <;> rfl
      | units n => cases n <;> rfl
    simp only [performAction, hv] at h ⊢
    split at h <;> cases h
    simp_all; rfl
  case loadTime r => cases r <;> cases h <;> rfl
  all_goals cases h; rfl

/-- The main context at a register action. -/
theorem runMoves_act (a : Action) (rest : List MicroStep) (s s1 : State) (more : List Move)
    (h : performAction a s = .ok s1) :
    runMoves (.main :: more) (goOn (.act a :: rest) s) = runMoves more (goOn rest s1) := by
  have hm := makeMove_main_act { s with cont := .act a :: rest } _ a rest rfl (performAction_cont a s s1 _ h)
  rw [goOn_cont] at hm
  exact runMoves_cons_next _ _ _ _ hm

/-- The main context at a conditional. -/
theorem runMoves_ifSet (c : Cond) (b : Block) (rest : List MicroStep) (s : State) (more : List Move) :
    runMoves (.main :: more) (goOn (.ifSet c b :: rest) s) =
      runMoves more (goOn ((if condHolds c s then blockSteps b else []) ++ rest) s) := by
  have hm : makeMove .main (goOn (.ifSet c b :: rest) s) =
      .next (goOn ((if condHolds c s then blockSteps b else []) ++ rest) s) := by
    rw [makeMove_main_cons _ (.ifSet c b) rest (by simp)]
    have hc : condHolds c (goOn (.ifSet c b :: rest) s) = condHolds c s := by cases c <;> rfl
    rw [runMicro, hc]
    exact congrArg _ (goOn_cont _ _ _)
  exact runMoves_cons_next _ _ _ _ hm

/-- Entering an expansion and meeting its first micro-step later are the same step. -/
theorem runMoves_enter (m : MicroStep) (rest : List MicroStep) (s s1 : State) (ms : List Move)
    (h : enter (m :: rest) s = .next s1) (hm : runMicro m rest { s with cont := m :: rest } = runMicro m rest s) :
    runMoves (.main :: ms) (goOn (m :: rest) s) = runMoves ms s1 := by
  have hx : makeMove .main (goOn (m :: rest) s) = .next s1 := by
    rw [goOn_cons, makeMove, mainStep]
    dsimp only
    rw [hm]; exact h
  exact runMoves_cons_next _ _ _ _ hx

theorem responsiveMoves_append (ans : BusAnswer) (a b : List MicroStep) :
    responsiveMoves ans (a ++ b) = responsiveMoves ans a ++ responsiveMoves ans b := by
  simp [responsiveMoves]

/-! ### The bus composites -/

/-- The seven primitives of a register read, from the issue of the first START, with the device answering. -/
theorem readReg_run (a : Byte) (rest : List MicroStep) (s : State) (ack : Bit) (d : Byte) (hb : s.busop = .none)
    (hr : s.responding = true) (hw : s.par.slaR ≠ s.par.slaW) :
    ∃ t, enter (readRegSteps (.lit a) ++ rest) s = .next t ∧
      ∀ more, runMoves (remainingMoves (.device ack d) (readRegSteps (.lit a)) ++ more) t =
        runMoves more (goOn rest { s with
          rx := rtcRead s a, trace := s.trace ++ readRegEvents s.par a (rtcRead s a), phase := .idle,
          opDone := false, rtcPtr := a, rtcSel := .none }) := by
  obtain ⟨par, rx, tsec, tmin, thrs, wh, wm, pc, cont, sp, lp, chg, latch, mode, hold, busop, opDone, phase, trace, bl,
    dig, lines, rtcMem, rtcPtr, rtcSel, responding, inputs, draws⟩ := s
  dsimp only at hb hr hw
  subst hb hr
  refine ⟨_, rfl, fun more => ?_⟩
  simp [remainingMoves, responsiveMoves, readRegSteps, startSteps, sendSteps, receiveSteps, stopSteps, runMoves,
    makeMove, mainStep, goOn, runMicro, performAction, issue, handOver, completeBusOp, completeStart, completeWrite,
    completeRead, finishBusOp, emit, deviceFrame, deviceByte, deviceAccepts, deviceDrives, receive, byteArg, stopBus, hw,
    readRegEvents, rtcRead]
  cases rest <;> simp [advancePc]

/-- The same read where it stands inside a longer operation. -/
theorem readReg_again (a : Byte) (rest : List MicroStep) (s : State) (ack : Bit) (d : Byte) (hb : s.busop = .none)
    (hr : s.responding = true) (hw : s.par.slaR ≠ s.par.slaW) (more : List Move) :
    runMoves (responsiveMoves (.device ack d) (readRegSteps (.lit a)) ++ more) (goOn (readRegSteps (.lit a) ++ rest) s) =
      runMoves more (goOn rest { s with
        rx := rtcRead s a, trace := s.trace ++ readRegEvents s.par a (rtcRead s a), phase := .idle,
        opDone := false, rtcPtr := a, rtcSel := .none }) := by
  obtain ⟨t, ht, h⟩ := readReg_run a rest s ack d hb hr hw
  rw [← h more]
  refine runMoves_enter _ _ s t _ ht ?_
  simp [runMicro, performAction, issue, handOver, hb, goOn]

/-- The five primitives of a register write, from the issue of its START, with the device answering; `x` and `y` are the
bytes its operands stand for while it runs. -/
theorem writeReg_run (a b : ByteArg) (x y : Byte) (rest : List MicroStep) (s : State) (ack : Bit) (d : Byte)
    (hb : s.busop = .none) (hr : s.responding = true)
    (ha : ∀ t : State, t.wh = s.wh → t.wm = s.wm → byteArg a t = x)
    (hy : ∀ t : State, t.wh = s.wh → t.wm = s.wm → byteArg b t = y) :
    ∃ t, enter (writeRegSteps a b ++ rest) s = .next t ∧
      ∀ more, runMoves (remainingMoves (.device ack d) (writeRegSteps a b) ++ more) t =
        runMoves more (goOn rest { s with
          trace := s.trace ++ writeRegEvents s.par x y, phase := .idle, opDone := false, rtcPtr := x, rtcSel := .none,
          rtcMem := s.rtcMem.write x.toNat y }) := by
  obtain ⟨par, rx, tsec, tmin, thrs, wh, wm, pc, cont, sp, lp, chg, latch, mode, hold, busop, opDone, phase, trace, bl,
    dig, lines, rtcMem, rtcPtr, rtcSel, responding, inputs, draws⟩ := s
  dsimp only at hb hr ha hy
  subst hb hr
  refine ⟨_, rfl, fun more => ?_⟩
  have hsla : ∀ t, byteArg .slaW t = t.par.slaW := fun _ => rfl
  simp [remainingMoves, responsiveMoves, writeRegSteps, startSteps, sendSteps, stopSteps, runMoves, makeMove, mainStep,
    goOn, runMicro, performAction, issue, handOver, completeBusOp, completeStart, completeWrite, finishBusOp, emit,
    deviceFrame, deviceByte, deviceAccepts, hsla, ha, hy, stopBus, writeRegEvents, rtcWrite]
  cases rest <;> simp [advancePc]

/-- The same write where it stands inside a longer operation. -/
theorem writeReg_again (a b : ByteArg) (x y : Byte) (rest : List MicroStep) (s : State) (ack : Bit) (d : Byte)
    (hb : s.busop = .none) (hr : s.responding = true)
    (ha : ∀ t : State, t.wh = s.wh → t.wm = s.wm → byteArg a t = x)
    (hy : ∀ t : State, t.wh = s.wh → t.wm = s.wm → byteArg b t = y) (more : List Move) :
    runMoves (responsiveMoves (.device ack d) (writeRegSteps a b) ++ more) (goOn (writeRegSteps a b ++ rest) s) =
      runMoves more (goOn rest { s with
        trace := s.trace ++ writeRegEvents s.par x y, phase := .idle, opDone := false, rtcPtr := x, rtcSel := .none,
        rtcMem := s.rtcMem.write x.toNat y }) := by
  obtain ⟨t, ht, h⟩ := writeReg_run a b x y rest s ack d hb hr ha hy
  rw [← h more]
  refine runMoves_enter _ _ s t _ ht ?_
  simp [runMicro, performAction, issue, handOver, hb, goOn]

end Sys2Proof.Machine
end

