-- ==== Sys2Proof/Laws/Encoding.lean ====
section
/-! SUPPORT. The four fields of a packed word, and the must-be-zero test of a format as a statement about its fields. -/

namespace Sys2Proof

theorem extract_bit {w : Nat} (x : BitVec w) (s n i : Nat) (h : i < n) :
    (x.extractLsb' s n).getLsbD i = x.getLsbD (s + i) := by
  simp [h]

@[simp] theorem opField_packWord (op a b c : Byte) : opField (packWord op a b c) = op := by
  apply BitVec.eq_of_getLsbD_eq
  intro i hi
  simp only [opField, packWord, extract_bit _ _ _ _ hi, BitVec.getLsbD_append]
  rw [if_neg (by omega), if_neg (by omega), if_neg (by omega)]
  congr 1
  omega

@[simp] theorem aField_packWord (op a b c : Byte) : aField (packWord op a b c) = a := by
  apply BitVec.eq_of_getLsbD_eq
  intro i hi
  simp only [aField, packWord, extract_bit _ _ _ _ hi, BitVec.getLsbD_append]
  rw [if_neg (by omega), if_neg (by omega), if_pos (by omega)]
  congr 1
  omega

@[simp] theorem bField_packWord (op a b c : Byte) : bField (packWord op a b c) = b := by
  apply BitVec.eq_of_getLsbD_eq
  intro i hi
  simp only [bField, packWord, extract_bit _ _ _ _ hi, BitVec.getLsbD_append]
  rw [if_neg (by omega), if_pos (by omega)]
  congr 1
  omega

@[simp] theorem cField_packWord (op a b c : Byte) : cField (packWord op a b c) = c := by
  apply BitVec.eq_of_getLsbD_eq
  intro i hi
  simp only [cField, packWord, extract_bit _ _ _ _ hi, BitVec.getLsbD_append]
  rw [if_pos (by omega)]
  congr 1
  omega

/-- A word is its four fields (30_encoding.md R90). -/
theorem packWord_fields (w : OpWord) : packWord (opField w) (aField w) (bField w) (cField w) = w := by
  apply BitVec.eq_of_getLsbD_eq
  intro i hi
  simp only [packWord, BitVec.getLsbD_append, opField, aField, bField, cField, BitVec.getLsbD_extractLsb']
  split_ifs with h1 h2 h3
  · simp [h1]
  · have : i - 8 < 8 := h2
    simp only [this, decide_true, Bool.true_and]; congr 1; omega
  · have : i - 8 - 8 < 8 := h3
    simp only [this, decide_true, Bool.true_and]; congr 1; omega
  · have : i - 8 - 8 - 8 < 8 := by omega
    simp only [this, decide_true, Bool.true_and]; congr 1; omega

/-- Masking acts on each field alone. -/
theorem packWord_and (op a b c op' a' b' c' : Byte) :
    packWord op a b c &&& packWord op' a' b' c' = packWord (op &&& op') (a &&& a') (b &&& b') (c &&& c') := by
  apply BitVec.eq_of_getLsbD_eq
  intro i hi
  simp only [packWord, BitVec.getLsbD_and, BitVec.getLsbD_append]
  split_ifs <;> rfl

/-- Two packed words are equal when their fields are. -/
theorem packWord_inj (op a b c op' a' b' c' : Byte) :
    packWord op a b c = packWord op' a' b' c' ↔ op = op' ∧ a = a' ∧ b = b' ∧ c = c' := by
  constructor
  · intro h
    exact ⟨by simpa using congrArg opField h, by simpa using congrArg aField h, by simpa using congrArg bField h,
      by simpa using congrArg cField h⟩
  · rintro ⟨rfl, rfl, rfl, rfl⟩; rfl

/-- The mask of a format, field by field: `op` whole, then the must-be-zero bits of `a`, `b`, `c` (30_encoding.md R91). -/
def maskA : Format → Byte
  | .n => 0xFF#8
  | .a => 0x00#8
  | .ab => 0x00#8
  | .abc => 0x00#8
  | .s => 0xFE#8
  | .tv => 0xFC#8
  | .d => 0x80#8

/-- The must-be-zero bits of `b`. -/
def maskB : Format → Byte
  | .n => 0xFF#8
  | .a => 0xFF#8
  | .ab => 0x00#8
  | .abc => 0x00#8
  | .s => 0xFF#8
  | .tv => 0xF0#8
  | .d => 0xFF#8

/-- The must-be-zero bits of `c`. -/
def maskC : Format → Byte
  | .n => 0xFF#8
  | .a => 0xFF#8
  | .ab => 0xFF#8
  | .abc => 0x00#8
  | .s => 0xFF#8
  | .tv => 0xFF#8
  | .d => 0xFF#8

theorem formatMask_fields (f : Format) : formatMask f = packWord 0xFF#8 (maskA f) (maskB f) (maskC f) := by
  cases f <;> rfl

theorem opField_only (op : Byte) : (op ++ 0#24 : OpWord) = packWord op 0#8 0#8 0#8 := by
  apply BitVec.eq_of_getLsbD_eq
  intro i hi
  simp only [packWord, BitVec.getLsbD_append, BitVec.getLsbD_zero]
  split_ifs <;> first | rfl | omega

/-- The must-be-zero test of `decode`, field by field. -/
theorem mask_test (w : OpWord) (f : Format) :
    w &&& formatMask f = opField w ++ 0#24 ↔
      aField w &&& maskA f = 0#8 ∧ bField w &&& maskB f = 0#8 ∧ cField w &&& maskC f = 0#8 := by
  have hw := packWord_fields w
  have h255 : ∀ x : Byte, x &&& 0xFF#8 = x := fun x => by
    apply BitVec.eq_of_getLsbD_eq
    intro i hi
    rw [BitVec.getLsbD_and]
    have : (0xFF#8).getLsbD i = true := by
      interval_cases i <;> rfl
    simp [this]
  rw [opField_only, formatMask_fields]
  conv_lhs => rw [← hw, packWord_and, packWord_inj]
  simp only [h255, packWord_fields, true_and]

/-- The word of four fields as the number 30_encoding.md R90 gives. -/
theorem packWord_eq_ofNat (op a b c : Byte) :
    packWord op a b c = BitVec.ofNat 32 (op.toNat * 2 ^ 24 + a.toNat * 2 ^ 16 + b.toNat * 2 ^ 8 + c.toNat) := by
  apply BitVec.eq_of_toNat_eq
  have ho := op.isLt
  have ha := a.isLt
  have hb := b.isLt
  have hc := c.isLt
  simp only [packWord, BitVec.toNat_append, BitVec.toNat_ofNat]
  rw [← Nat.shiftLeft_add_eq_or_of_lt ha, ← Nat.shiftLeft_add_eq_or_of_lt hb, ← Nat.shiftLeft_add_eq_or_of_lt hc]
  simp only [Nat.shiftLeft_eq]
  omega

/-- A word with clean must-be-zero bits decodes to the operation its operation code selects. -/
theorem decode_of_format (w : OpWord) (f : Format) (hf : opFormat (opField w) = some f)
    (h : w &&& formatMask f = opField w ++ 0#24) : decode w = instrOfWord w := by
  simp [decode, hf, h]

end Sys2Proof
end

