-- ==== Sys2Proof/Laws/PerInstr.lean ====
section
/-! SUPPORT. Facts about every operation as syntax, one lemma per constructor of `Instr`. -/

namespace Sys2Proof

/-- The must-be-zero bits of an operation's own word are clear: the operation code is in the table and the word passes
the mask of its format (30_encoding.md R91, R93). -/
def Laws.MatchesFormat.Statement (i : Instr) : Prop :=
  ∃ f, opFormat (opField (encode i)) = some f ∧ encode i &&& formatMask f = opField (encode i) ++ 0#24

theorem Laws.MatchesFormat.start : Laws.MatchesFormat.Statement (.start) := by
  refine ⟨.n, by simp [encode]; rfl, (mask_test _ _).2 ?_⟩
  simp [encode, maskA, maskB, maskC]

theorem Laws.MatchesFormat.stop : Laws.MatchesFormat.Statement (.stop) := by
  refine ⟨.n, by simp [encode]; rfl, (mask_test _ _).2 ?_⟩
  simp [encode, maskA, maskB, maskC]

theorem Laws.MatchesFormat.wrbyte (a : Byte) : Laws.MatchesFormat.Statement (.wrbyte a) := by
  refine ⟨.a, by simp [encode]; rfl, (mask_test _ _).2 ?_⟩
  simp [encode, maskA, maskB, maskC]

theorem Laws.MatchesFormat.rdbyte : Laws.MatchesFormat.Statement (.rdbyte) := by
  refine ⟨.n, by simp [encode]; rfl, (mask_test _ _).2 ?_⟩
  simp [encode, maskA, maskB, maskC]

theorem Laws.MatchesFormat.rdreg (a : Byte) : Laws.MatchesFormat.Statement (.rdreg a) := by
  refine ⟨.a, by simp [encode]; rfl, (mask_test _ _).2 ?_⟩
  simp [encode, maskA, maskB, maskC]

theorem Laws.MatchesFormat.wrreg (a : Byte) (b : Byte) : Laws.MatchesFormat.Statement (.wrreg a b) := by
  refine ⟨.ab, by simp [encode]; rfl, (mask_test _ _).2 ?_⟩
  simp [encode, maskA, maskB, maskC]

theorem Laws.MatchesFormat.rdtime : Laws.MatchesFormat.Statement (.rdtime) := by
  refine ⟨.n, by simp [encode]; rfl, (mask_test _ _).2 ?_⟩
  simp [encode, maskA, maskB, maskC]

theorem Laws.MatchesFormat.wrtime (a : Byte) (b : Byte) (c : Byte) : Laws.MatchesFormat.Statement (.wrtime a b c) := by
  refine ⟨.abc, by simp [encode]; rfl, (mask_test _ _).2 ?_⟩
  simp [encode, maskA, maskB, maskC]

theorem Laws.MatchesFormat.tick (s : Level) : Laws.MatchesFormat.Statement (.tick s) := by
  refine ⟨.s, by simp [encode]; rfl, (mask_test _ _).2 ?_⟩
  simp only [encode, aField_packWord, bField_packWord, cField_packWord]
  cases s <;> decide

theorem Laws.MatchesFormat.tstsp : Laws.MatchesFormat.Statement (.tstsp) := by
  refine ⟨.n, by simp [encode]; rfl, (mask_test _ _).2 ?_⟩
  simp [encode, maskA, maskB, maskC]

theorem Laws.MatchesFormat.clrsp : Laws.MatchesFormat.Statement (.clrsp) := by
  refine ⟨.n, by simp [encode]; rfl, (mask_test _ _).2 ?_⟩
  simp [encode, maskA, maskB, maskC]

theorem Laws.MatchesFormat.tstlp : Laws.MatchesFormat.Statement (.tstlp) := by
  refine ⟨.n, by simp [encode]; rfl, (mask_test _ _).2 ?_⟩
  simp [encode, maskA, maskB, maskC]

theorem Laws.MatchesFormat.clrlp : Laws.MatchesFormat.Statement (.clrlp) := by
  refine ⟨.n, by simp [encode]; rfl, (mask_test _ _).2 ?_⟩
  simp [encode, maskA, maskB, maskC]

theorem Laws.MatchesFormat.setdig (t : Fin 4) (v : Nibble) : Laws.MatchesFormat.Statement (.setdig t v) := by
  refine ⟨.tv, by simp [encode]; rfl, (mask_test _ _).2 ?_⟩
  simp only [encode, aField_packWord, bField_packWord, cField_packWord]
  revert t v
  decide

theorem Laws.MatchesFormat.refresh : Laws.MatchesFormat.Statement (.refresh) := by
  refine ⟨.n, by simp [encode]; rfl, (mask_test _ _).2 ?_⟩
  simp [encode, maskA, maskB, maskC]

theorem Laws.MatchesFormat.displ (n : BitVec 7) : Laws.MatchesFormat.Statement (.displ n) := by
  refine ⟨.d, by simp [encode]; rfl, (mask_test _ _).2 ?_⟩
  simp only [encode, aField_packWord, bField_packWord, cField_packWord]
  revert n
  decide

theorem Laws.MatchesFormat.dispr (n : BitVec 7) : Laws.MatchesFormat.Statement (.dispr n) := by
  refine ⟨.d, by simp [encode]; rfl, (mask_test _ _).2 ?_⟩
  simp only [encode, aField_packWord, bField_packWord, cField_packWord]
  revert n
  decide

theorem Laws.MatchesFormat.blon : Laws.MatchesFormat.Statement (.blon) := by
  refine ⟨.n, by simp [encode]; rfl, (mask_test _ _).2 ?_⟩
  simp [encode, maskA, maskB, maskC]

theorem Laws.MatchesFormat.bloff : Laws.MatchesFormat.Statement (.bloff) := by
  refine ⟨.n, by simp [encode]; rfl, (mask_test _ _).2 ?_⟩
  simp [encode, maskA, maskB, maskC]

theorem Laws.MatchesFormat.bltog : Laws.MatchesFormat.Statement (.bltog) := by
  refine ⟨.n, by simp [encode]; rfl, (mask_test _ _).2 ?_⟩
  simp [encode, maskA, maskB, maskC]

theorem Laws.MatchesFormat.modestep : Laws.MatchesFormat.Statement (.modestep) := by
  refine ⟨.n, by simp [encode]; rfl, (mask_test _ _).2 ?_⟩
  simp [encode, maskA, maskB, maskC]

end Sys2Proof
end

