-- ==== Sys2Proof/Laws/Schedule.lean ====
section
/-! SUPPORT. No move looks at the environment's pending moves: what it answers is the same whatever they are. -/

namespace Sys2Proof.Machine

/-- Going on keeps the pending moves and does not look at them. -/
theorem goOn_inputs (rest : List MicroStep) (s : State) (l : List Move) :
    goOn rest { s with inputs := l } = { goOn rest s with inputs := l } := by
  cases rest with
  | nil => simp only [goOn, advancePc]; split_ifs <;> rfl
  | cons => rfl

theorem performAction_inputs (a : Action) (s s1 : State) (l : List Move) (h : performAction a s = .ok s1) :
    performAction a { s with inputs := l } = .ok { s1 with inputs := l } := by
  cases a
  case issue c =>
    cases c <;> simp only [performAction, issue] at h ⊢ <;> (try split_ifs at h ⊢) <;> cases h <;> rfl
  case stop =>
    simp only [performAction, stopBus] at h ⊢
    split_ifs at h ⊢
    cases h; rfl
  case setDig t v =>
    have hv : digArg v { s with inputs := l } = digArg v s := by
      cases v with
      | lit => rfl
      | hi r => cases r <;> rfl
      | lo r => cases r <;> rfl
      | tens n => cases n <;> rfl
      | units n => cases n <;> rfl
    simp only [performAction, hv] at h ⊢
    split at h <;> cases h
    simp_all; rfl
  case loadTime r => cases r <;> cases h <;> rfl
  all_goals cases h; rfl

theorem runMicro_inputs (m : MicroStep) (rest : List MicroStep) (s u : State) (l : List Move)
    (h : runMicro m rest s = .next u) : runMicro m rest { s with inputs := l } = .next { u with inputs := l } := by
  rcases runMicro_next _ _ _ _ h with ⟨a, s1, rfl, h1, rfl⟩ | ⟨rfl, hd, rfl⟩ | ⟨rfl, hd, rfl⟩ | ⟨c, b, rfl, rfl⟩
  · simp [runMicro, performAction_inputs _ _ _ l h1, goOn_inputs]
  · simp only [runMicro, hd, if_true]
    exact congrArg _ (goOn_inputs rest { s with opDone := false } l)
  · simp [runMicro, hd]
  · have hc : condHolds c { s with inputs := l } = condHolds c s := by cases c <;> rfl
    simp [runMicro, hc, goOn_inputs]

theorem sampleButton_inputs (level : Level) (s : State) (l : List Move) :
    sampleButton level { s with inputs := l } = { sampleButton level s with inputs := l } := by
  cases level <;> simp only [sampleButton, classifyHold] <;> split_ifs <;> rfl

theorem deviceByte_inputs (b : Byte) (s : State) (l : List Move) :
    deviceByte b { s with inputs := l } = { deviceByte b s with inputs := l } := by
  unfold deviceByte
  dsimp only
  split <;> (try split_ifs) <;> rfl

theorem completeWrite_inputs (b : Byte) (ans : BusAnswer) (s : State) (l : List Move) :
    completeWrite b ans { s with inputs := l } = { completeWrite b ans s with inputs := l } := by
  cases ans
  · have h := deviceByte_inputs b s l
    unfold completeWrite
    dsimp only
    rw [h]
    rfl
  · rfl

theorem completeBusOp_inputs (ans : BusAnswer) (s : State) (l : List Move) :
    completeBusOp ans { s with inputs := l } = { completeBusOp ans s with inputs := l } := by
  unfold completeBusOp
  dsimp only
  split_ifs
  · split
    · rfl
    · cases ans <;> rfl
    · exact completeWrite_inputs _ ans s l
    · cases ans <;> rfl
  · rfl

theorem mainStep_inputs (s u : State) (l : List Move) (h : mainStep s = .next u) :
    mainStep { s with inputs := l } = .next { u with inputs := l } := by
  have hl : ({ s with inputs := l } : State).cont = s.cont := rfl
  unfold mainStep at h ⊢
  rw [hl]
  split at h
  · unfold fetchStep at h ⊢
    have hw : fetchWord { s with inputs := l } = fetchWord s := rfl
    rw [hw]
    cases hf : fetchWord s with
    | none => simp only [hf] at h ⊢; cases h; rfl
    | some w =>
      simp only [hf] at h ⊢
      cases hd : decode w with
      | error e => simp [hd] at h
      | ok i =>
        simp only [hd] at h ⊢
        rcases exec_cases i s with ⟨lv, rfl, he⟩ | ⟨-, -, he⟩ | ⟨-, hne, he⟩
        · rw [he] at h; cases h
          simp only [exec, execTick, takeTick, sampleButton_inputs]
          exact congrArg _ (goOn_inputs [] (sampleButton lv s) l)
        · rw [he] at h; cases h
        · rcases exec_cases i { s with inputs := l } with ⟨lv, rfl, he'⟩ | ⟨rfl, hm, he'⟩ | ⟨-, -, he'⟩
          · exact absurd rfl hne
          · exact absurd (by simp [expansionOf, modeBody, show s.mode = 3#2 from hm]) hne
          · rw [he']
            rw [he] at h
            have hx' : expansionOf i { s with inputs := l } = expansionOf i s := by cases i <;> rfl
            rw [hx']
            cases hx : expansionOf i s with
            | nil => exact absurd hx hne
            | cons m rest =>
              rw [hx] at h
              exact runMicro_inputs _ _ _ _ l h
  · exact runMicro_inputs _ _ _ _ l h

/-- What a move answers does not depend on the moves still pending, which it keeps. -/
theorem makeMove_inputs (m : Move) (s u : State) (l : List Move) (h : makeMove m s = .next u) :
    makeMove m { s with inputs := l } = .next { u with inputs := l } := by
  cases m with
  | main => exact mainStep_inputs s u l h
  | tick lv => cases h; exact congrArg _ (sampleButton_inputs lv s l)
  | complete a => cases h; exact congrArg _ (completeBusOp_inputs a s l)
  | rtcTick =>
    cases h
    simp only [makeMove, rtcTick]
    have hv : rtcTimeValid { s with inputs := l } = rtcTimeValid s := rfl
    rw [hv]; split_ifs <;> rfl
  | rtcSet => cases h; rfl
  | noResp => cases h; rfl
  | reset => cases h; rfl

end Sys2Proof.Machine
end

