-- ==== Sys2Proof/Tests/Slice0.lean ====
section
/-! SUPPORT. Small tests: what WellFormed refuses, words written out from the spec, one step of each operation against
95_test_vectors.md, and for every statement with hypotheses a state that meets them. -/

namespace Sys2Proof.Tests

open Sys2Proof Sys2Proof.Machine

/-! ### A small instance: the bytes and maps 95_test_vectors.md uses -/

/-- SLA_W 0xD0, SLA_R 0xD1, TUBE_MAP the identity, PROGRAM these words, not looping. -/
def testParams (program : List OpWord) : Params where
  slaW := 0xD0#8
  slaR := 0xD1#8
  tubeMap := ⟨⟨0, 1, 2, 3⟩, ⟨0, 1, 2, 3⟩, ⟨0, 1, 2, 3⟩, ⟨0, 1, 2, 3⟩⟩
  blankPush := .sameIteration
  program := program
  loops := false

/-- The reset state of that instance. -/
def testState (program : List OpWord) : State := resetCore .none { State.reset with par := testParams program }

/-- The real block on that instance: PROGRAM = [MODESTEP], looping. -/
def testBlock : State :=
  resetCore .none { State.reset with par := { testParams [0x50000000#32] with loops := true } }

/-- The device at these three bytes, as seconds, minutes, hours. -/
def testTime (sec mi hrs : Byte) (s : State) : State :=
  rtcWrite 0x02#8 hrs (rtcWrite 0x01#8 mi (rtcWrite 0x00#8 sec s))

/-- The next state has this property. -/
def answers (o : Host.Outcome State Fault Refusal) (p : State → Bool) : Bool :=
  match o with
  | .next t => p t
  | .fault _ => false
  | .refused _ => false

/-- The step is refused for this reason. -/
def refuses (o : Host.Outcome State Fault Refusal) (r : Refusal) : Bool :=
  match o with
  | .next _ => false
  | .fault _ => false
  | .refused q => q == r

/-! ### WellFormed refuses ill-formed terms (30_encoding.md R94 (c)) -/

theorem test_displ_100_is_ill_formed : (Instr.displ 100#7).wellFormed = false := by decide

theorem test_dispr_127_is_ill_formed : (Instr.dispr 127#7).wellFormed = false := by decide

/-! ### Words of 95_test_vectors.md section 2.2, V-ENC-1 to V-ENC-28 -/

theorem test_decode_start : decode 0x10000000#32 = .ok .start := by decide

theorem test_decode_stop : decode 0x11000000#32 = .ok .stop := by decide

theorem test_decode_wrbyte : decode 0x12D00000#32 = .ok (.wrbyte 0xD0#8) := by decide

theorem test_decode_rdbyte : decode 0x13000000#32 = .ok .rdbyte := by decide

theorem test_decode_rdreg : decode 0x20020000#32 = .ok (.rdreg 0x02#8) := by decide

theorem test_decode_wrreg : decode 0x21015900#32 = .ok (.wrreg 0x01#8 0x59#8) := by decide

theorem test_decode_rdtime : decode 0x22000000#32 = .ok .rdtime := by decide

theorem test_decode_wrtime : decode 0x23173B1E#32 = .ok (.wrtime 23#8 59#8 30#8) := by decide

theorem test_decode_tick_pressed : decode 0x30000000#32 = .ok (.tick .pressed) := by decide

theorem test_decode_tick_released : decode 0x30010000#32 = .ok (.tick .released) := by decide

theorem test_decode_tstsp : decode 0x31000000#32 = .ok .tstsp := by decide

theorem test_decode_clrsp : decode 0x32000000#32 = .ok .clrsp := by decide

theorem test_decode_tstlp : decode 0x33000000#32 = .ok .tstlp := by decide

theorem test_decode_clrlp : decode 0x34000000#32 = .ok .clrlp := by decide

theorem test_decode_setdig : decode 0x40030900#32 = .ok (.setdig 3 9#4) := by decide

theorem test_decode_setdig_blank : decode 0x40020A00#32 = .ok (.setdig 2 0xA#4) := by decide

theorem test_decode_setdig_0xF : decode 0x40000F00#32 = .ok (.setdig 0 0xF#4) := by decide

theorem test_decode_refresh : decode 0x41000000#32 = .ok .refresh := by decide

theorem test_decode_displ : decode 0x42630000#32 = .ok (.displ 99#7) := by decide

theorem test_decode_dispr : decode 0x433B0000#32 = .ok (.dispr 59#7) := by decide

theorem test_decode_blon : decode 0x44000000#32 = .ok .blon := by decide

theorem test_decode_bloff : decode 0x45000000#32 = .ok .bloff := by decide

theorem test_decode_bltog : decode 0x46000000#32 = .ok .bltog := by decide

theorem test_decode_modestep : decode 0x50000000#32 = .ok .modestep := by decide

theorem test_decode_illegal_op :
    [0x00000000#32, 0x14000000#32, 0x24000000#32, 0x35000000#32, 0x47000000#32, 0x51000000#32, 0xFFFFFFFF#32].all
      (fun w => decode w == .error .illegalOp) = true := by decide

theorem test_decode_reserved_bits :
    [0x10000001#32, 0x30020000#32, 0x40040000#32, 0x40001000#32, 0x42800000#32].all
      (fun w => decode w == .error .reservedBits) = true := by decide

theorem test_decode_displ_100 : decode 0x42640000#32 = .error .reservedOperand := by decide

/-- The table counts bits from the least significant end of the one word. -/
theorem test_table_word : decodeTableWord 32 0x23003B00 = some (.wrtime 0#8 59#8 0#8) := by decide

theorem test_encode_wrtime : encode (.wrtime 0#8 59#8 0#8) = 0x23003B00#32 := by decide

/-! ### Pure helpers: V-BCD-1 to V-BCD-15 -/

theorem test_dec2bcd :
    [0#8, 9#8, 10#8, 23#8, 59#8, 99#8].map dec2bcd = [0x00#8, 0x09#8, 0x10#8, 0x23#8, 0x59#8, 0x99#8] := by decide

theorem test_bcd2dec : [0x00#8, 0x23#8, 0x59#8, 0x99#8].map bcd2dec = [0#8, 23#8, 59#8, 99#8] := by decide

theorem test_valid_bytes :
    validHours 0x23#8 = true ∧ validHours 0x24#8 = false ∧ validHours 0x0A#8 = false ∧
    validSixty 0x59#8 = true ∧ validSixty 0x60#8 = false := by decide

/-! ### One step of each operation -/

/-- V-TB-9: the issue of START. -/
theorem test_start : answers (exec .start (testState []))
    (fun t => t.busop == .start && !t.opDone && t.cont == [.await] && t.phase == .idle) = true := by decide

/-- V-TB-2: STOP ends the transaction at once. -/
theorem test_stop : answers (exec .stop { testState [] with phase := .active, trace := [.start] })
    (fun t => t.trace == [.start, .stop] && t.phase == .idle && t.pc == 1) = true := by decide

/-- V-TB-7. -/
theorem test_stop_idle : refuses (exec .stop (testState [])) .phaseIdle = true := by decide

/-- V-TB-10: the byte in flight. -/
theorem test_wrbyte : answers (exec (.wrbyte 0xD0#8) { testState [] with phase := .active })
    (fun t => t.busop == .write 0xD0#8 && !t.opDone) = true := by decide

/-- V-TB-6. -/
theorem test_wrbyte_idle : refuses (exec (.wrbyte 0x00#8) (testState [])) .phaseIdle = true := by decide

/-- V-TB-11: RX is unchanged until the completion. -/
theorem test_rdbyte : answers (exec .rdbyte { testState [] with phase := .active })
    (fun t => t.busop == .read && t.rx == 0x00#8) = true := by decide

/-- V-TB-8. -/
theorem test_rdbyte_idle : refuses (exec .rdbyte (testState [])) .phaseIdle = true := by decide

/-- V-TB-5: the completion of the read. -/
theorem test_complete_read : answers (makeMove (.complete (.device 1#1 0xFF#8))
      { testTime 0x30#8 0x59#8 0x23#8 (testState []) with busop := .read, rtcSel := .addressedR, rtcPtr := 0x02#8 })
    (fun t => t.rx == 0x23#8 && t.trace == [.rbyte 0x23#8 1#1] && t.busop == .none && t.opDone) = true := by decide

/-- P1 line 2: the device acknowledges its own address. -/
theorem test_complete_write : answers (makeMove (.complete (.device 1#1 0#8)) { testState [] with busop := .write 0xD0#8 })
    (fun t => t.rtcSel == .addressedWFirst && t.trace == [.wbyte 0xD0#8 0#1]) = true := by decide

/-- R140: the seven primitives begin with START and end with STOP. -/
theorem test_rdreg : answers (exec (.rdreg 0x02#8) (testState []))
    (fun t => t.busop == .start && t.cont.length == 12 && t.cont.getLast? == some (.act .stop)) = true := by decide

/-- R142: the value byte is the last before STOP. -/
theorem test_wrreg : answers (exec (.wrreg 0x01#8 0x59#8) (testState []))
    (fun t => t.busop == .start &&
      t.cont.drop 5 == [.act (.issue (.write (.lit 0x59#8))), .await, .act .stop]) = true := by decide

/-- R144: the hours are assigned last. -/
theorem test_rdtime : answers (exec .rdtime (testState []))
    (fun t => t.busop == .start && t.cont.length == 41 && t.cont.getLast? == some (.act (.loadTime .thrs))) = true := by
  decide

/-- R146: the seconds operand, third in the word, is the first value written. -/
theorem test_wrtime : answers (exec (.wrtime 23#8 59#8 30#8) (testState []))
    (fun t => t.busop == .start && t.cont.length == 26 &&
      t.cont[5]? == some (.act (.issue (.write (.bcd (.lit 30#8)))))) = true := by decide

/-- V-DB-24: no count beyond 100. -/
theorem test_tick_saturates : answers (exec (.tick .pressed) { testState [] with hold := 100#7 })
    (fun t => t.hold == 100#7 && t.pc == 1) = true := by decide

/-- V-DB-5, V-DB-6, V-DB-7, V-DB-8: the four bands at their bounds. -/
theorem test_tick_bands :
    [(1#7, false, false), (2#7, true, false), (19#7, true, false), (20#7, false, false), (30#7, false, false),
     (31#7, false, true)].all (fun c => answers (makeMove (.tick .released) { testState [] with hold := c.1 })
      (fun t => t.hold == 0#7 && t.sp == c.2.1 && t.lp == c.2.2)) = true := by decide

/-- V-DB-19. -/
theorem test_tstsp : answers (exec .tstsp { testState [] with sp := true }) (fun t => t.latch && t.sp) = true := by decide

/-- V-DB-20. -/
theorem test_clrsp : answers (exec .clrsp { testState [] with sp := true, lp := true, latch := true })
    (fun t => t.latch && !t.sp && t.lp) = true := by decide

/-- V-DB-22, with SP set: the other flag is not read. -/
theorem test_tstlp : answers (exec .tstlp { testState [] with sp := true, latch := true })
    (fun t => !t.latch && !t.lp) = true := by decide

/-- V-DB-23. -/
theorem test_clrlp : answers (exec .clrlp { testState [] with sp := true, lp := true }) (fun t => !t.lp && t.sp) = true := by
  decide

/-- V-DD-1: the slot changes, the lines do not. -/
theorem test_setdig : answers (exec (.setdig 0 7#4) (testState []))
    (fun t => t.dig == ⟨7#4, 0xA#4, 0xA#4, 0xA#4⟩ && t.lines.t0 == ⟨false, true, false, true⟩) = true := by decide

/-- V-DD-3. -/
theorem test_refresh : answers (exec .refresh { testState [] with dig := ⟨2#4, 3#4, 5#4, 9#4⟩ })
    (fun t => t.lines == ⟨⟨false, true, false, false⟩, ⟨true, true, false, false⟩, ⟨true, false, true, false⟩,
      ⟨true, false, false, true⟩⟩) = true := by decide

/-- V-DD-4: the same digits under four different maps. -/
theorem test_refresh_mapped : answers (exec .refresh { testState [] with
      dig := ⟨2#4, 3#4, 5#4, 9#4⟩
      par := { testParams [] with tubeMap := ⟨⟨0, 1, 2, 3⟩, ⟨1, 0, 3, 2⟩, ⟨3, 2, 1, 0⟩, ⟨2, 3, 0, 1⟩⟩ } })
    (fun t => t.lines == ⟨⟨false, true, false, false⟩, ⟨true, true, false, false⟩, ⟨false, true, false, true⟩,
      ⟨false, true, true, false⟩⟩) = true := by decide

/-- V-DD-7, first micro-step: tens to tube 0. -/
theorem test_displ : answers (exec (.displ 23#7) (testState [])) (fun t => t.dig == ⟨2#4, 0xA#4, 0xA#4, 0xA#4⟩) = true := by
  decide

/-- V-DD-20. -/
theorem test_displ_100 : refuses (exec (.displ 100#7) (testState [])) (.displayOperand 100#8) = true := by decide

/-- V-DD-11, first micro-step: tens to tube 2. -/
theorem test_dispr : answers (exec (.dispr 59#7) (testState [])) (fun t => t.dig == ⟨0xA#4, 0xA#4, 5#4, 0xA#4⟩) = true := by
  decide

/-- V-DD-14. -/
theorem test_blon : answers (exec .blon (testState [])) (fun t => t.bl) = true := by decide

/-- V-DD-16. -/
theorem test_bloff : answers (exec .bloff { testState [] with bl := true }) (fun t => !t.bl) = true := by decide

/-- V-DD-19. -/
theorem test_bltog : answers (exec .bltog { testState [] with bl := true }) (fun t => !t.bl) = true := by decide

/-- V-MC-6, first micro-step of the Hours body. -/
theorem test_modestep_hours : answers (exec .modestep { testState [] with mode := 1#2, wh := 23#8 })
    (fun t => t.dig.t0 == 2#4 && t.cont.length == 9) = true := by decide

/-- V-MC-20, V-MC-21. -/
theorem test_modestep_refused :
    refuses (exec .modestep { testState [] with mode := 1#2, wh := 165#8 }) (.displayOperand 165#8) = true ∧
    refuses (exec .modestep { testState [] with mode := 3#2 }) .modeUnused = true := by decide

/-- V-MC-3, the seed. -/
theorem test_seed : answers (makeMove .main { testState [] with
      cont := [.act .seed], thrs := 0x23#8, tmin := 0x59#8, chg := true })
    (fun t => t.wh == 23#8 && t.wm == 59#8 && !t.chg && t.mode == 1#2) = true := by decide

/-- V-MC-7, V-MC-9, V-MC-12: the wraps. -/
theorem test_wraps : wrapInc 23 23#8 = 0#8 ∧ wrapInc 23 22#8 = 23#8 ∧ wrapInc 59 59#8 = 0#8 ∧ wrapInc 23 165#8 = 0#8 := by
  decide

/-- V-RTC-9: the device at 23:59:59. -/
theorem test_device_tick : answers (makeMove .rtcTick (testTime 0x59#8 0x59#8 0x23#8 (testState [])))
    (fun t => rtcRead t 0x00#8 == 0x00#8 && rtcRead t 0x01#8 == 0x00#8 && rtcRead t 0x02#8 == 0x00#8) = true := by decide

/-- A word placed with withFetchWord is the next thing that runs (log 4). -/
theorem test_placed_word : answers (step (State.reset.withFetchWord 32 0x40030900)) (fun t => t.dig.t3 == 9#4) = true := by
  decide

/-- R97: `;` separates lines, `#` starts a comment, a symbol is its byte. -/
theorem test_script_text : readScript (testParams []) "CLICK 2; WRBYTE SLA_W # test".toList =
    some [.click 2, .op (.wrbyte 0xD0#8)] := by decide

/-- R97: operands are separated by commas, the three numbers of `.rtc_set` by colons; another separator is no line. -/
theorem test_script_separators :
    readScript (testParams []) "WRREG REG_SEC , 0x59\n.rtc_set 23:59:30".toList =
      some [.op (.wrreg 0x00#8 0x59#8), .rtcSet 23#8 59#8 30#8] ∧
    readScript (testParams []) "WRREG 0 0x59".toList = none ∧ readScript (testParams []) "WRREG 0:0x59".toList = none ∧
    readScript (testParams []) "WRREG 0,".toList = none ∧ readScript (testParams []) "START,".toList = none := by decide

/-- V-DD-20: `DISPL 100` is a line, its operand fits the field, and the run of it is refused; 128 does not fit. -/
theorem test_script_display_100 :
    readScript (testParams []) "DISPL 100".toList = some [.op (.displ 100#7)] ∧
    refuses (runScript (.device 0#1 0#8) [.op (.displ 100#7)] (testState [])) (.reservedOperand 0x42640000#32) = true ∧
    readScript (testParams []) "DISPR 128".toList = none := by decide

/-- R97: a TICK line of a script is a step of the tick context, not of PROGRAM. -/
theorem test_script_run : answers (runScript (.device 0#1 0#8) [.click 2, .op .tstsp] (testState []))
    (fun t => t.latch && t.sp && runEnded t && t.pc == 1) = true := by decide

/-! ### The hypotheses of the statements are met -/

/-- Both displays at the top of their range. -/
theorem witness_decodeEncodeRoundTrip :
    (Instr.displ 99#7).wellFormed = true ∧ (Instr.dispr 99#7).wellFormed = true := by decide

theorem witness_encodeDecodeRoundTrip : decode 0x42630000#32 = .ok (.displ 99#7) := by decide

/-- A word that is accepted, one no row selects, and one a row selects but R94 (c) refuses. -/
theorem witness_decoderAcceptsExactlyTheTable :
    opRows.any (fun r => r.selects 0x42630000#32) = true ∧ opRows.any (fun r => r.selects 0x00000000#32) = false ∧
    opRows.any (fun r => r.selects 0x42640000#32) = true ∧ 99 < (displayField 0x42640000#32).toNat := by decide

theorem witness_tableRowsDoNotOverlap :
    (⟨0xFF00FFFF#32, 0x12000000#32⟩ : OpRow) ∈ opRows ∧
    (⟨0xFF00FFFF#32, 0x12000000#32⟩ : OpRow).selects 0x12D00000#32 = true := by decide

theorem witness_stepRunsTheDecodedInstruction :
    let s := { testState [0x40030900#32] with inputs := [.main] }
    s.cont = [] ∧ s.par.program[s.pc]? = some 0x40030900#32 ∧ decode 0x40030900#32 = .ok (.setdig 3 9#4) := by decide

/-- A pending micro-step, a finished main context at the end of PROGRAM and beyond it, and the pc in each of its cases. -/
theorem witness_stepRunsThePendingMicroStep :
    (let s := { testState [] with inputs := [.main], cont := [.await] }
    s.inputs = .main :: [] ∧ s.cont = .await :: []) ∧
    (testState []).cont = [] ∧ (testState []).par.program.length ≤ (testState []).pc ∧
    ({ testState [0x44000000#32] with pc := 5 } : State).par.program.length ≤ 5 ∧
    answers (makeMove .main (testState [0x44000000#32])) (fun t => t.pc == 1) = true ∧
    answers (makeMove .main { testBlock with cont := [.act .blOn] }) (fun t => t.pc == 0) = true ∧
    answers (makeMove (.reset .none) { testBlock with pc := 7 }) (fun t => t.pc == 0) = true := by decide

/-- One word for each clause, the third at both ends of 100..127. -/
theorem witness_illegalAndReservedWordsRefused :
    (testState [0x00000000#32]).cont = [] ∧ fetchWord (testState [0x00000000#32]) = some 0x00000000#32 ∧
    opFormat (opField 0x00000000#32) = none ∧
    fetchWord (testState [0x40040000#32]) = some 0x40040000#32 ∧ opFormat (opField 0x40040000#32) = some .tv ∧
    0x40040000#32 &&& formatMask .tv ≠ opField 0x40040000#32 ++ 0#24 ∧
    fetchWord (testState [0x42640000#32]) = some 0x42640000#32 ∧ opFormat (opField 0x42640000#32) = some .d ∧
    0x42640000#32 &&& formatMask .d = opField 0x42640000#32 ++ 0#24 ∧ opField 0x42640000#32 = 0x42#8 ∧ 99 < (displayField 0x42640000#32).toNat ∧
    fetchWord (testState [0x437F0000#32]) = some 0x437F0000#32 ∧ opFormat (opField 0x437F0000#32) = some .d ∧
    opField 0x437F0000#32 = 0x43#8 ∧ 0x437F0000#32 &&& formatMask .d = opField 0x437F0000#32 ++ 0#24 ∧ 99 < (displayField 0x437F0000#32).toNat := by
  decide

theorem witness_stepsFollowTheSchedule :
    answers (runMoves [.tick .pressed, .main] { testState [0x44000000#32] with inputs := [] }) (fun t => t.bl) = true := by
  decide

theorem witness_placedWordIsTheNextInstruction : decodeTableWord 32 0x12D00000 = some (.wrbyte 0xD0#8) := by decide

/-- The instance of the tests is legal. -/
theorem witness_legalInstance : (testState []).par.wf = true := by decide

theorem witness_everyStepKeepsTheMachineInvariant :
    MachineInv { testBlock with inputs := [.main], hold := 100#7 } ∧
    answers (step { testBlock with inputs := [.main], hold := 100#7 }) (fun t => t.busop == .start) = true := by
  unfold MachineInv; decide

/-- Both outcomes: the block at reset, and a display of a working value above 99. -/
theorem witness_hardwiredProgramIsNeverMisused :
    HardwiredInv testBlock ∧ HardwiredInv { testBlock with mode := 1#2, wh := 165#8 } ∧
    refuses (step { testBlock with mode := 1#2, wh := 165#8, inputs := [.main] }) (.displayOperand 165#8) = true := by
  unfold HardwiredInv; decide

theorem witness_workingValuesStayInRange :
    let s := { testBlock with wh := 23#8, wm := 59#8, thrs := 0x23#8, tmin := 0x59#8, inputs := [.main] }
    WorkingInRange s ∧ ReadTimeValid s ∧ answers (step s) (fun _ => true) = true := by
  unfold WorkingInRange ReadTimeValid; decide

theorem witness_noStepChangesTheProgram :
    answers (step { testBlock with inputs := [.reset .addressedW] }) (fun t => t.rtcSel == .addressedW) = true := by decide

/-- Each of the three points is reached. -/
theorem witness_modeIsWrittenAtThreePoints :
    answers (makeMove .main { testState [] with cont := [.act .seed] }) (fun t => t.mode == 1#2) = true ∧
    answers (makeMove .main { testState [] with cont := [.act .toMinutes] }) (fun t => t.mode == 2#2) = true ∧
    answers (makeMove .main { testState [] with cont := [.act .toClock], mode := 2#2 }) (fun t => t.mode == 0#2) = true := by
  decide

/-- With a micro-step pending, and at a fetch of a word that is no TICK. -/
theorem witness_mainContextNeverWritesTheDebouncer :
    answers (makeMove .main { testState [] with cont := [.act .clrSp], sp := true }) (fun t => !t.sp) = true ∧
    fetchWord (testState [0x32000000#32]) = some 0x32000000#32 ∧ decode 0x32000000#32 = .ok .clrsp := by decide

/-- HOLD is 0 at reset, so a press of any duration can start there. -/
theorem witness_pressOfDurationIsClassified : (testState []).hold = 0#7 := by decide

/-- A body of MODESTEP between the test and the clear of each flag, the bands at their ends, and the run with a short press. -/
theorem witness_pressBetweenTestAndClearIsLost :
    let s := { testBlock with cont := [.act .tstSp, .ifSet .latchT .clockShort], sp := true }
    let l := { testBlock with cont := [.act .tstLp, .ifSet .latchT .minutesLong], lp := true }
    s.hold = 0#7 ∧ s.cont = .act .tstSp :: .ifSet .latchT .clockShort :: [] ∧ s.sp = true ∧
    l.hold = 0#7 ∧ l.cont = .act .tstLp :: .ifSet .latchT .minutesLong :: [] ∧ l.lp = true ∧
    2 ≤ 2 ∧ 2 ≤ 19 ∧ 19 ≤ 19 ∧ 30 < 31 ∧
    answers (runMoves [.main, .main, .tick .pressed, .tick .pressed, .tick .released] s) (fun u => u.sp && u.latch) = true := by
  decide

theorem witness_startCompletes : (testState []).busop = .none ∧ (testState []).responding = true := by decide

theorem witness_stopCompletes : ({ testState [] with phase := .active } : State).phase = .active := by decide

/-- For WRBYTE and RDBYTE: the phase active, nothing in flight, the device addressed for reading and not. -/
theorem witness_bytesComplete :
    let s := { testState [] with phase := .active, rtcSel := .addressedR }
    s.busop = .none ∧ s.phase = .active ∧ s.responding = true ∧ s.rtcSel = .addressedR ∧
    (testState []).rtcSel ≠ .addressedR := by decide

theorem witness_busPrimitivesAreRefusedWhileIdle : (testState []).phase = .idle ∧ (testState []).busop = .none := by decide

theorem witness_awaitWaitsForDone :
    let s := { testState [] with cont := [.await], busop := .start }
    s.cont = .await :: [] ∧ s.opDone = false ∧ ({ s with opDone := true } : State).opDone = true := by decide

/-- The engine with each operation in flight. -/
theorem witness_completionIsTheEnginesOneStep :
    ([.none, .start, .write 0x5A#8, .read] : List BusOp).all (fun o =>
      ({ testState [] with busop := o } : State).responding) = true := by decide

/-- A blocked main context, with a dead device and with a live one. -/
theorem witness_blockedForEverWithoutCompletion :
    let s := { testState [] with cont := [.await], busop := .start }
    mainBlocked s = true ∧ mainBlocked { s with responding := false } = true ∧
    ([.main, .tick .pressed, .rtcTick] : List Move).all (fun m => !isCompletion m) = true ∧
    ([.main, .tick .pressed, .rtcTick] : List Move).all (fun m => !isReset m) = true := by decide

/-- Blocked in a START, with an empty PROGRAM behind it. -/
def blockedState : State := { testState [] with cont := [.await], busop := .start }

/-- That START is completed at once; from then on only the main context moves. -/
def completeThenMain (n : Nat) : Move := if n = 0 then .complete (.device 0#1 0#8) else .main

/-- From the second move on the run stands still, with nothing in flight. -/
theorem completeThenMain_settles (n : Nat) :
    runMoves (firstMoves completeThenMain (n + 2)) blockedState = runMoves (firstMoves completeThenMain 2) blockedState := by
  induction n with
  | zero => rfl
  | succ n ih =>
    have hf : firstMoves completeThenMain (n + 1 + 2) = firstMoves completeThenMain (n + 2) ++ [.main] := by
      simp [firstMoves, List.range_succ, completeThenMain]
    rw [hf, runMoves_append _ _ _ _ (ih.trans rfl)]
    rfl

/-- A schedule that is fair and responsive from a blocked state, and one that is not: completions keep coming, but the
device no longer answers. -/
theorem witness_blockedMainContextIsFreedWhenResponsive :
    MainFair completeThenMain ∧ BusResponsive completeThenMain blockedState ∧
    (∀ n, isReset (completeThenMain n) = false) ∧ mainBlocked blockedState = true ∧ blockedState.busop ≠ .none ∧
    ¬ BusResponsive (fun _ => .complete (.device 0#1 0#8)) { blockedState with responding := false } := by
  refine ⟨fun n => ⟨n + 1, by omega, by simp [completeThenMain]⟩, ?_, ?_, by decide, by decide, ?_⟩
  · intro n u hu hb
    match n with
    | 0 => cases hu; exact ⟨0, _, le_rfl, rfl, .inr ⟨rfl, rfl, rfl⟩⟩
    | 1 => cases hu; exact absurd rfl hb
    | n + 2 =>
      rw [completeThenMain_settles] at hu
      cases hu; exact absurd rfl hb
  · intro n
    unfold completeThenMain
    split_ifs <;> rfl
  · intro h
    have still : ∀ k, runMoves (firstMoves (fun _ => .complete (.device 0#1 0#8)) k) { blockedState with responding := false } =
        .next { blockedState with responding := false } := by
      intro k
      induction k with
      | zero => rfl
      | succ k ih =>
        have hf : firstMoves (fun _ => Move.complete (.device 0#1 0#8)) (k + 1) =
            firstMoves (fun _ => Move.complete (.device 0#1 0#8)) k ++ [.complete (.device 0#1 0#8)] := by
          simp [firstMoves, List.range_succ]
        rw [hf, runMoves_append _ _ _ _ ih]
        rfl
    obtain ⟨k, t, -, ht, hk⟩ := h 0 _ rfl (by decide)
    rw [still] at ht
    cases ht
    rcases hk with hk | ⟨-, -, hk⟩ <;> cases hk

/-- For RDREG, WRREG, RDTIME and WRTIME: nothing in flight, the device responding, a legal instance, canonical memory. -/
theorem witness_transfersComplete :
    let s := testTime 0x30#8 0x59#8 0x23#8 (testState [])
    s.busop = .none ∧ s.responding = true ∧ s.par.wf = true ∧ s.rtcMem.wf = true := by decide

/-- A schedule of RDREG with a tick before every move. -/
theorem witness_rdregIsUnaffectedByTicks :
    ((remainingMoves (.device 0#1 0#8) (readRegSteps (.lit 0x02#8))).flatMap fun m => [.tick .pressed, m]).filter
        (fun m => !isTick m) = remainingMoves (.device 0#1 0#8) (readRegSteps (.lit 0x02#8)) := by decide

/-- A valid time at the carry of all three registers, and an invalid one. -/
theorem witness_deviceTickIsTheNextSecond :
    validRtc (testTime 0x59#8 0x59#8 0x23#8 (testState [])) = true ∧
    validRtc (testTime 0x60#8 0x59#8 0x23#8 (testState [])) = false ∧
    (testTime 0x59#8 0x59#8 0x23#8 (testState [])).rtcMem.wf = true := by decide

/-- Displays at 0 and 99. -/
theorem witness_displaysComplete : (0#7).toNat ≤ 99 ∧ (99#7).toNat ≤ 99 ∧ (testState []).par.wf = true := by decide

/-- Display operands at 100 and 127, working values at 100. -/
theorem witness_displayAbove99IsRefused :
    99 < (100#7).toNat ∧ 99 < (127#7).toNat ∧
    ({ testState [] with mode := 1#2, wh := 100#8 } : State).mode = 1#2 ∧
    ({ testState [] with mode := 2#2, wm := 100#8 } : State).mode = 2#2 ∧ 99 < (100#8).toNat := by decide

theorem witness_displayPathsAgreeOnValidBytes : isBcd 0x99#8 = true ∧ isBcd 0x00#8 = true := by decide

/-- For ClockMode: MODE 0, nothing in flight, the device responding. -/
theorem witness_modestepInClockMode :
    testBlock.mode = 0#2 ∧ testBlock.busop = .none ∧ testBlock.responding = true ∧ testBlock.par.wf = true := by decide

/-- For the two settings modes: a working value at 99, and the two ways not to commit. -/
theorem witness_modestepInSettingsModes :
    let s := { testBlock with mode := 2#2, wm := 99#8, wh := 99#8 }
    s.mode = 2#2 ∧ s.wm.toNat ≤ 99 ∧ s.wh.toNat ≤ 99 ∧ s.par.wf = true ∧ s.lp = false ∧ (s.sp || s.chg) = false := by
  decide

/-- For the commit: LongPress in SettingsMode Minutes after a ShortPress in this iteration. -/
theorem witness_modestepInMinutesModeWithCommit :
    let s := { testBlock with mode := 2#2, wm := 59#8, lp := true, sp := true }
    s.mode = 2#2 ∧ s.wm.toNat ≤ 99 ∧ s.par.wf = true ∧ s.rtcMem.wf = true ∧ s.busop = .none ∧ s.responding = true ∧
    s.lp = true ∧ (s.sp || s.chg) = true := by decide

theorem witness_modestepInModeThreeIsRefused : ({ testBlock with mode := 3#2 } : State).mode = 3#2 := by decide

theorem witness_seedTakesTheTimeLastRead : ReadTimeValid { testBlock with thrs := 0x23#8, tmin := 0x59#8 } := by
  unfold ReadTimeValid; decide

end Sys2Proof.Tests
end

/-! ### The parameters of the instance are kept (00_scope.md R6, 20_memory.md R76) -/

namespace Sys2Proof.Machine

theorem runMicro_par (m : MicroStep) (rest : List MicroStep) (s s' : State) (h : runMicro m rest s = .next s') :
    s'.par = s.par := by
  rcases runMicro_next m rest s s' h with ⟨a, s1, -, ha, rfl⟩ | ⟨-, -, rfl⟩ | ⟨-, -, rfl⟩ | ⟨c, b, -, rfl⟩
  · obtain ⟨hpar, -⟩ := performAction_frame a s s1 ha
    simpa using hpar
  · simp
  · rfl
  · simp

theorem mainStep_par (s s' : State) (h : mainStep s = .next s') : s'.par = s.par := by
  rcases mainStep_next s s' h with ⟨-, rfl⟩ | ⟨-, level, w, -, -, rfl⟩ | ⟨m, rest, hm, -⟩
  · rfl
  · simp [takeTick]
  · exact runMicro_par m rest s s' hm

@[simp] theorem rtcSetTime_par (h m sec : Byte) (s : State) : (rtcSetTime h m sec s).par = s.par := by
  simp [rtcSetTime]

/-- RESET sets registers only; the parameters of the instance (00_scope.md R6) are none. -/
@[simp] theorem resetCore_par (sel : RtcSel) (s : State) : (resetCore sel s).par = s.par := rfl

/-- No move of any agent writes a parameter. -/
theorem makeMove_par (m : Move) (s s' : State) (h : makeMove m s = .next s') : s'.par = s.par := by
  cases m with
  | main => exact mainStep_par s s' h
  | tick level => cases h; simp [takeTick]
  | complete ans => cases h; simp
  | rtcTick => cases h; simp
  | rtcSet hours minutes seconds => cases h; simp
  | noResp => cases h; rfl
  | reset sel => cases h; simp

/-- Settles O17: a step is one move of one agent, made once its choice is used up, and neither writes a parameter. -/
theorem noStepChangesTheProgram : Obligations.NoStepChangesTheProgram := by
  intro s s' h
  calc s'.par = (dropMove s).par := makeMove_par (nextMove s) (dropMove s) s' h
    _ = s.par := by simp

end Sys2Proof.Machine

/-! ### A press of the button and the tests of its flags (42_inputdebouncer.md R161, R165, R167) -/

namespace Sys2Proof.Machine

/-- One more pressed sample, in the form a count of samples needs (42_inputdebouncer.md R160, R162). -/
theorem sampleButton_pressed_hold (s : State) (h : s.hold.toNat ≤ 100) :
    sampleButton .pressed s = { s with hold := BitVec.ofNat 7 (min (s.hold.toNat + 1) 100) } := by
  rw [sampleButton_pressed]
  split_ifs with hlt
  · have hcount : s.hold + 1#7 = BitVec.ofNat 7 (min (s.hold.toNat + 1) 100) := by
      apply BitVec.eq_of_toNat_eq
      simp only [BitVec.toNat_add, BitVec.toNat_ofNat]
      omega
    rw [hcount]
  · have hfull : s.hold = BitVec.ofNat 7 (min (s.hold.toNat + 1) 100) := by
      apply BitVec.eq_of_toNat_eq
      simp only [BitVec.toNat_ofNat]
      omega
    rw [← hfull]

/-- A run of pressed samples counts them up to 100 and changes nothing else (42_inputdebouncer.md R160, R162). -/
theorem runMoves_pressed (d : Nat) (s : State) (h : s.hold.toNat ≤ 100) :
    runMoves (List.replicate d (.tick .pressed)) s =
      .next { s with hold := BitVec.ofNat 7 (min (s.hold.toNat + d) 100) } := by
  induction d generalizing s with
  | zero =>
    have hkeep : BitVec.ofNat 7 (min (s.hold.toNat + 0) 100) = s.hold := by
      rw [Nat.add_zero, Nat.min_eq_left h, BitVec.ofNat_toNat, BitVec.setWidth_eq]
    rw [hkeep]; rfl
  | succ d ih =>
    have hmove : makeMove (.tick .pressed) s =
        .next { s with hold := BitVec.ofNat 7 (min (s.hold.toNat + 1) 100) } :=
      congrArg _ (sampleButton_pressed_hold s h)
    have hcount : (BitVec.ofNat 7 (min (s.hold.toNat + 1) 100)).toNat = min (s.hold.toNat + 1) 100 := by
      rw [BitVec.toNat_ofNat]; omega
    have hsum : min (min (s.hold.toNat + 1) 100 + d) 100 = min (s.hold.toNat + (d + 1)) 100 := by omega
    rw [List.replicate_succ, runMoves_cons_next _ _ _ _ hmove, ih _ (by simp only [hcount]; omega)]
    simp only [hcount, hsum]

/-- Settles O23: the counter reads `min d 100` at the release, and every bound of R161 lies below 100. -/
theorem pressOfDurationIsClassified : Obligations.PressOfDurationIsClassified := by
  intro s d h0
  have hpress := runMoves_pressed d s (by simp [h0])
  have hcount : (BitVec.ofNat 7 (min (s.hold.toNat + d) 100)).toNat = min d 100 := by
    simp only [h0, BitVec.toNat_ofNat]; omega
  have hlow : (2 ≤ min d 100) = (2 ≤ d) := by simp
  have hhigh : (min d 100 ≤ 19) = (d ≤ 19) := by simp
  have hlong : (30 < min d 100) = (30 < d) := by simp
  rw [runMoves_append _ _ _ _ hpress, runMoves_cons_next _ _ _ _ rfl, runMoves_nil, takeTick, sampleButton_released]
  simp only [hcount, hlow, hhigh, hlong, ← h0]

/-- An expansion that begins with a register action performs it in the step that enters it (10_state.md R31). -/
theorem enter_act (a : Action) (rest : List MicroStep) (s s1 : State) (h : performAction a s = .ok s1) :
    enter (.act a :: rest) s = .next (goOn rest s1) := by
  simp [enter, runMicro, h]

/-- Settles O24: each test is one micro-step, and its register action copies the flag. -/
theorem testsCopyTheFlagToTheLatch : Obligations.TestsCopyTheFlagToTheLatch :=
  ⟨by decide, by decide, fun s => ⟨enter_act .tstSp [] s _ rfl, enter_act .tstLp [] s _ rfl⟩⟩

end Sys2Proof.Machine

/-! ### The display operations: their words, and the slots and lines they leave (43_displaydriver.md R181 to R185) -/

namespace Sys2Proof

/-- The decoder takes an operation's own word to the operation code's row (30_encoding.md R91, R93). -/
theorem decode_encode_of_matchesFormat (i : Instr) (h : Laws.MatchesFormat.Statement i) :
    decode (encode i) = instrOfWord (encode i) := by
  obtain ⟨f, hf, hmask⟩ := h
  exact decode_of_format _ f hf hmask

/-- Zero bits in front of an operand leave its number (30_encoding.md R91). -/
theorem toNat_zeros_append {w : Nat} (k : Nat) (x : BitVec w) : (0#k ++ x).toNat = x.toNat := by
  simp [BitVec.toNat_append]

/-- The number 30_encoding.md R93 gives for a SETDIG word. -/
theorem encode_setdig (tube : Fin 4) (v : Nibble) :
    encode (.setdig tube v) = BitVec.ofNat 32 (0x40000000 + tube.val * 2 ^ 16 + v.toNat * 2 ^ 8) := by
  have htube : (BitVec.ofNat 2 tube.val).toNat = tube.val := by
    rw [BitVec.toNat_ofNat]; omega
  simp only [encode, packWord_eq_ofNat, toNat_zeros_append, htube]
  rfl

theorem decode_encode_setdig (tube : Fin 4) (v : Nibble) :
    decode (encode (.setdig tube v)) = .ok (.setdig tube v) := by
  have htube : ((0#6 ++ BitVec.ofNat 2 tube.val).extractLsb' 0 2).toFin = tube := by
    rw [BitVec.extractLsb'_append_eq_right]
    fin_cases tube <;> rfl
  have hv : (0#4 ++ v).extractLsb' 0 4 = v := BitVec.extractLsb'_append_eq_right
  rw [decode_encode_of_matchesFormat _ (Laws.MatchesFormat.setdig tube v)]
  simp only [instrOfWord, encode, opField_packWord, aField_packWord, bField_packWord, htube, hv]

/-- The number 30_encoding.md R93 gives for a word of the display format. -/
theorem packWord_display (op : Byte) (n : BitVec 7) :
    packWord op (0#1 ++ n) 0#8 0#8 = BitVec.ofNat 32 (op.toNat * 2 ^ 24 + n.toNat * 2 ^ 16) := by
  simp only [packWord_eq_ofNat, toNat_zeros_append, BitVec.toNat_zero, Nat.zero_mul, Nat.add_zero]

/-- A display operand at most 99 comes back out of its field (30_encoding.md R94 (c)). -/
theorem displayInstr_packWord (mk : BitVec 7 → Instr) (op : Byte) (n : BitVec 7) (hn : n.toNat ≤ 99) :
    displayInstr mk (packWord op (0#1 ++ n) 0#8 0#8) = .ok (mk n) := by
  have hfield : displayField (packWord op (0#1 ++ n) 0#8 0#8) = n := by
    rw [displayField, aField_packWord]
    exact BitVec.extractLsb'_append_eq_right
  rw [displayInstr, hfield, if_pos hn]

theorem decode_encode_displ (n : BitVec 7) (hn : n.toNat ≤ 99) : decode (encode (.displ n)) = .ok (.displ n) := by
  rw [decode_encode_of_matchesFormat _ (Laws.MatchesFormat.displ n)]
  simp [instrOfWord, encode, displayInstr_packWord _ _ _ hn]

theorem decode_encode_dispr (n : BitVec 7) (hn : n.toNat ≤ 99) : decode (encode (.dispr n)) = .ok (.dispr n) := by
  rw [decode_encode_of_matchesFormat _ (Laws.MatchesFormat.dispr n)]
  simp [instrOfWord, encode, displayInstr_packWord _ _ _ hn]

theorem Quad.get_set {α : Type} (q : Quad α) (i j : Fin 4) (v : α) :
    (q.set i v).get j = if j = i then v else q.get j := by
  split_ifs with h
  · rw [h, Quad.get_set_same]
  · exact Quad.get_set_ne q i j v h

end Sys2Proof

namespace Sys2Proof.Machine

/-- A bijective wiring sends no two bits to the same line (43_displaydriver.md R183). -/
theorem tubeWf_injective (m : Quad (Fin 4)) (h : tubeWf m = true) : Function.Injective m.get := by
  simp only [tubeWf, Bool.and_eq_true, bne_iff_ne] at h
  obtain ⟨⟨⟨⟨⟨h01, h02⟩, h03⟩, h12⟩, h13⟩, h23⟩ := h
  intro i j hij
  fin_cases i <;> fin_cases j <;> simp_all [Quad.get]

/-- Under a bijective wiring no later bit overwrites the line of an earlier one (43_displaydriver.md R182). -/
theorem driveTube_get (m : Quad (Fin 4)) (v : Nibble) (old : Quad Bool) (h : tubeWf m = true) (k : Fin 4) :
    (driveTube m v old).get (m.get k) = v.getLsbD k.val := by
  simp only [driveTube, Quad.get_set, (tubeWf_injective m h).eq_iff]
  fin_cases k <;> rfl

/-- Settles O46: SETDIG is one register action, and storing an entry of a four-entry file leaves the other three. -/
theorem setdigStoresTheSlot : Obligations.SetdigStoresTheSlot := by
  refine ⟨fun tube v => ?_, fun s tube v => ⟨_, enter_act (.setDig tube (.lit v)) [] s _ rfl, ?_⟩⟩
  · rw [← encode_setdig]
    exact decode_encode_setdig tube v
  · have hdig : (goOn [] (storeDigit tube v s)).dig = s.dig.set tube v := by simp
    refine ⟨?_, ?_, fun k hk => ?_⟩ <;> rw [hdig]
    · rfl
    · exact Quad.get_set_same s.dig tube v
    · exact Quad.get_set_ne s.dig tube k v hk

/-- Settles O47: REFRESH is one register action, which drives each line from the one bit wired to it. -/
theorem refreshDrivesEveryLine : Obligations.RefreshDrivesEveryLine := by
  refine ⟨by decide, fun s hwf => ⟨_, enter_act .refresh [] s _ rfl, ?_⟩⟩
  have hlines : (goOn [] (driveLines s)).lines = (driveLines s).lines := by simp
  refine ⟨?_, fun tube k => ?_⟩ <;> rw [hlines]
  · rfl
  · simp only [driveLines, Quad.get_tabulate]
    exact driveTube_get _ _ _ (s.par.wf_tube hwf tube) k

/-- A tens digit of an operand at most 99 is stored in its slot (43_displaydriver.md R184). -/
theorem performAction_tens (i : Fin 4) (x : Byte) (s : State) (hx : x.toNat ≤ 99) :
    performAction (.setDig i (.tens (.lit x))) s = .ok (storeDigit i (tensDigit x.toNat) s) := by
  simp [performAction, digArg, numArg, displayDigit, hx, tensDigit]

/-- A units digit of an operand at most 99 is stored in its slot (43_displaydriver.md R184). -/
theorem performAction_units (j : Fin 4) (x : Byte) (s : State) (hx : x.toNat ≤ 99) :
    performAction (.setDig j (.units (.lit x))) s = .ok (storeDigit j (unitsDigit x.toNat) s) := by
  simp [performAction, digArg, numArg, displayDigit, hx, unitsDigit]

/-- The three micro-steps of a display on the tubes `i` and `j`: the first stores the tens, two more moves of the main
context store the units and drive all lines (43_displaydriver.md R184, R185). -/
theorem display_run (i j : Fin 4) (n : BitVec 7) (s : State) (hn : n.toNat ≤ 99) (hwf : s.par.wf = true) :
    ∃ t, enter [.act (.setDig i (.tens (.lit (n.setWidth 8)))), .act (.setDig j (.units (.lit (n.setWidth 8)))),
        .act .refresh] s = .next t ∧
      t.dig = s.dig.set i (tensDigit n.toNat) ∧
      runMoves [.main, .main] t = .next (advancePc { s with
        dig := (s.dig.set i (tensDigit n.toNat)).set j (unitsDigit n.toNat)
        lines := linesOf s.par ((s.dig.set i (tensDigit n.toNat)).set j (unitsDigit n.toNat)) }) := by
  have hx : (n.setWidth 8).toNat = n.toNat := BitVec.toNat_setWidth_of_le (by decide)
  have hle : (n.setWidth 8).toNat ≤ 99 := by rw [hx]; exact hn
  have htens := performAction_tens i _ s hle
  have hunits := performAction_units j _ (storeDigit i (tensDigit n.toNat) s) hle
  rw [hx] at htens hunits
  refine ⟨_, enter_act _ _ s _ htens, by simp, ?_⟩
  rw [runMoves_act _ _ _ _ _ hunits, runMoves_act .refresh _ _ _ _ rfl, driveLines_eq _ (by simpa using hwf)]
  rfl

/-- Settles O49: DISPL is the display on tubes 0 and 1. -/
theorem displCompletes : Obligations.DisplCompletes := by
  refine ⟨fun n hn => ?_, fun s n hn hwf => ?_⟩
  · rw [← decode_encode_displ n hn, encode, packWord_display]
    rfl
  · obtain ⟨t, hexec, hdig, hrun⟩ := display_run 0 1 n s hn hwf
    exact ⟨t, hexec, congrArg Quad.t0 hdig, hrun⟩

/-- Settles O50: DISPR is the display on tubes 2 and 3. -/
theorem disprCompletes : Obligations.DisprCompletes := by
  refine ⟨fun n hn => ?_, fun s n hn hwf => ?_⟩
  · rw [← decode_encode_dispr n hn, encode, packWord_display]
    rfl
  · obtain ⟨t, hexec, hdig, hrun⟩ := display_run 2 3 n s hn hwf
    exact ⟨t, hexec, congrArg Quad.t2 hdig, hrun⟩

end Sys2Proof.Machine

/-! ### The three points that write MODE (44_modecontroller.md R215) -/

namespace Sys2Proof.Machine

/-- A micro-step keeps MODE, or it is one of the three assignments and MODE is its constant. -/
theorem runMicro_mode (m : MicroStep) (rest : List MicroStep) (s s' : State) (h : runMicro m rest s = .next s') :
    s'.mode = s.mode ∨ (m = .act .seed ∧ s'.mode = 1#2) ∨ (m = .act .toMinutes ∧ s'.mode = 2#2) ∨
    (m = .act .toClock ∧ s'.mode = 0#2) := by
  rcases runMicro_next m rest s s' h with ⟨a, s1, rfl, ha, rfl⟩ | ⟨-, -, rfl⟩ | ⟨-, -, rfl⟩ | ⟨c, b, -, rfl⟩
  · rcases performAction_mode a s s1 ha with ⟨rfl, hm⟩ | ⟨rfl, hm⟩ | ⟨rfl, hm⟩ | hm <;> simp [hm]
  · simp
  · exact .inl rfl
  · simp

/-- The micro-step that enters an operation keeps MODE: no expansion begins with one of the three assignments. -/
theorem runMicro_expansion_mode (i : Instr) (m : MicroStep) (rest : List MicroStep) (s s' : State)
    (hx : expansionOf i s = m :: rest) (h : runMicro m rest s = .next s') : s'.mode = s.mode := by
  obtain ⟨a, rfl, hseed, hminutes, hclock⟩ := (expansion_shape i s).2 m rest hx
  simpa [hseed, hminutes, hclock] using runMicro_mode (.act a) rest s s' h

/-- A move of the main context keeps MODE, or one of the three assignments was its next pending micro-step. -/
theorem mainStep_mode (s s' : State) (h : mainStep s = .next s') :
    s'.mode = s.mode ∨ (s.cont.head? = some (.act .seed) ∧ s'.mode = 1#2) ∨
    (s.cont.head? = some (.act .toMinutes) ∧ s'.mode = 2#2) ∨
    (s.cont.head? = some (.act .toClock) ∧ s'.mode = 0#2) := by
  rcases mainStep_next s s' h with ⟨-, rfl⟩ | ⟨-, level, w, -, -, rfl⟩ | ⟨m, rest, hm, hc | ⟨-, i, w, -, -, hx⟩⟩
  · exact .inl rfl
  · simp [takeTick]
  · simpa [hc] using runMicro_mode m rest s s' hm
  · exact .inl (runMicro_expansion_mode i m rest s s' hx hm)

@[simp] theorem rtcSetTime_mode (h m sec : Byte) (s : State) : (rtcSetTime h m sec s).mode = s.mode := by
  simp [rtcSetTime]

/-- RESET puts the machine in ClockMode (70_reset_and_hazards.md R261). -/
@[simp] theorem resetCore_mode (sel : RtcSel) (s : State) : (resetCore sel s).mode = 0#2 := rfl

/-- A move of any agent keeps MODE, or it is the main context's at one of the three assignments, or it is RESET. -/
theorem makeMove_mode (m : Move) (s s' : State) (h : makeMove m s = .next s') :
    s'.mode = s.mode ∨
    (m = .main ∧ s.cont.head? = some (.act .seed) ∧ s'.mode = 1#2) ∨
    (m = .main ∧ s.cont.head? = some (.act .toMinutes) ∧ s'.mode = 2#2) ∨
    (m = .main ∧ s.cont.head? = some (.act .toClock) ∧ s'.mode = 0#2) ∨
    (isReset m = true ∧ s'.mode = 0#2) := by
  cases m with
  | main => simpa [isReset] using mainStep_mode s s' h
  | tick level => cases h; simp [takeTick]
  | complete ans => cases h; simp
  | rtcTick => cases h; simp
  | rtcSet hours minutes seconds => cases h; simp
  | noResp => cases h; exact .inl rfl
  | reset sel => cases h; simp [isReset]

/-- The blocks of the bodies that hold an assignment of MODE (44_modecontroller.md R201 C4, R202 H3, R203 M3). -/
theorem modeAssignment_mem_blockSteps (b : Block) :
    (.act .seed ∈ blockSteps b ↔ b = .clockLong) ∧ (.act .toMinutes ∈ blockSteps b ↔ b = .hoursLong) ∧
    (.act .toClock ∈ blockSteps b ↔ b = .minutesLong) := by
  cases b <;> decide

/-- Settles O18: of the register actions three write MODE, each stands in one block and begins no expansion, and of the
other agents' moves only RESET writes it. -/
theorem modeIsWrittenAtThreePoints : Obligations.ModeIsWrittenAtThreePoints := by
  refine ⟨makeMove_mode, fun s rest => ⟨fun h => ?_, fun h => ?_, fun h => ?_⟩, modeAssignment_mem_blockSteps⟩
  · exact ⟨_, makeMove_main_act s _ .seed rest h rfl, by simp⟩
  · exact ⟨_, makeMove_main_act s _ .toMinutes rest h rfl, by simp⟩
  · exact ⟨_, makeMove_main_act s _ .toClock rest h rfl, by simp⟩

end Sys2Proof.Machine

/-! ### What the tick leaves alone (60_exceptions.md R236) -/

namespace Sys2Proof.Machine

/-- A sample writes the counter and the two flags only. -/
theorem sampleButton_frame (level : Level) (s : State) :
    sampleButton level s = { s with
      hold := (sampleButton level s).hold, sp := (sampleButton level s).sp, lp := (sampleButton level s).lp } := by
  cases level with
  | pressed => rw [sampleButton_pressed]; split_ifs <;> rfl
  | released => rw [sampleButton_released]

theorem sampleButton_pressed_flags (s : State) :
    (sampleButton .pressed s).sp = s.sp ∧ (sampleButton .pressed s).lp = s.lp := by
  rw [sampleButton_pressed]
  split_ifs <;> exact ⟨rfl, rfl⟩

/-- The bands of a short and of a long press are disjoint, so a release keeps one of the flags (42_inputdebouncer.md R160,
R161). -/
theorem sampleButton_released_one_flag (s : State) :
    (sampleButton .released s).sp = s.sp ∨ (sampleButton .released s).lp = s.lp := by
  rw [sampleButton_released]
  rcases Nat.lt_or_ge 30 s.hold.toNat with hlong | hnot
  · have hshort : ¬ s.hold.toNat ≤ 19 := by omega
    exact .inl (by simp [hshort])
  · exact .inr (by simp [hnot])

/-- Settles O19: a pressed sample keeps both flags; a release ORs each with its band, and the two bands are disjoint. -/
theorem tickTouchesOnlyTheDebouncer : Obligations.TickTouchesOnlyTheDebouncer := by
  intro level s
  refine ⟨sampleButton level s, rfl, sampleButton_frame level s, ?_⟩
  cases level with
  | pressed =>
    obtain ⟨hsp, hlp⟩ := sampleButton_pressed_flags s
    exact ⟨fun h => hsp.trans h, fun h => hlp.trans h, .inl hsp⟩
  | released =>
    refine ⟨fun h => ?_, fun h => ?_, sampleButton_released_one_flag s⟩ <;> simp [sampleButton_released, h]

end Sys2Proof.Machine

/-! ### The decoder and the encoder are inverse (30_encoding.md R90 to R94) -/

namespace Sys2Proof

/-- The word of every operation passes the must-be-zero test of its row (30_encoding.md R91, R93). -/
theorem encode_matchesFormat (i : Instr) : Laws.MatchesFormat.Statement i := by
  cases i with
  | start => exact Laws.MatchesFormat.start
  | stop => exact Laws.MatchesFormat.stop
  | wrbyte a => exact Laws.MatchesFormat.wrbyte a
  | rdbyte => exact Laws.MatchesFormat.rdbyte
  | rdreg a => exact Laws.MatchesFormat.rdreg a
  | wrreg a b => exact Laws.MatchesFormat.wrreg a b
  | rdtime => exact Laws.MatchesFormat.rdtime
  | wrtime a b c => exact Laws.MatchesFormat.wrtime a b c
  | tick s => exact Laws.MatchesFormat.tick s
  | tstsp => exact Laws.MatchesFormat.tstsp
  | clrsp => exact Laws.MatchesFormat.clrsp
  | tstlp => exact Laws.MatchesFormat.tstlp
  | clrlp => exact Laws.MatchesFormat.clrlp
  | setdig t v => exact Laws.MatchesFormat.setdig t v
  | refresh => exact Laws.MatchesFormat.refresh
  | displ n => exact Laws.MatchesFormat.displ n
  | dispr n => exact Laws.MatchesFormat.dispr n
  | blon => exact Laws.MatchesFormat.blon
  | bloff => exact Laws.MatchesFormat.bloff
  | bltog => exact Laws.MatchesFormat.bltog
  | modestep => exact Laws.MatchesFormat.modestep

/-- The line level comes back out of its bit (30_encoding.md R104). -/
theorem levelOfBit_bitOfLevel (s : Level) : levelOfBit (bitOfLevel s) = s := by
  cases s <;> rfl

/-- An operation's operands come back out of its own word (30_encoding.md R92, R93). -/
theorem decode_encode (i : Instr) (hi : i.wellFormed = true) : decode (encode i) = .ok i := by
  cases i with
  | setdig tube v => exact decode_encode_setdig tube v
  | displ n => exact decode_encode_displ n (by simpa [Instr.wellFormed] using hi)
  | dispr n => exact decode_encode_dispr n (by simpa [Instr.wellFormed] using hi)
  | tick s =>
    have hbit : (0#7 ++ bitOfLevel s).extractLsb' 0 1 = bitOfLevel s := BitVec.extractLsb'_append_eq_right
    rw [decode_encode_of_matchesFormat _ (encode_matchesFormat _)]
    simp [instrOfWord, encode, hbit, levelOfBit_bitOfLevel]
  | _ =>
    rw [decode_encode_of_matchesFormat _ (encode_matchesFormat _)]
    simp [instrOfWord, encode]

/-- Settles O1: the word of an operation has clean must-be-zero bits, and each operand comes back out of its field. -/
theorem decodeEncodeRoundTrip : Obligations.DecodeEncodeRoundTrip := decode_encode

/-- A word decodes exactly when its operation code is in the table, its must-be-zero bits are clear, and the operand is in
range (30_encoding.md R94). -/
theorem decode_eq_ok_iff (w : OpWord) (i : Instr) :
    decode w = .ok i ↔
      ∃ f, opFormat (opField w) = some f ∧ w &&& formatMask f = opField w ++ 0#24 ∧ instrOfWord w = .ok i := by
  unfold decode
  cases opFormat (opField w) with
  | none => simp
  | some f => by_cases hmask : w &&& formatMask f = opField w ++ 0#24 <;> simp [hmask]

/-- The word with the operand fields of a format as they stand in `w` and every other bit clear (30_encoding.md R91). -/
def cleanWord (f : Format) (w : OpWord) : OpWord :=
  match f with
  | .n => packWord (opField w) 0#8 0#8 0#8
  | .a => packWord (opField w) (aField w) 0#8 0#8
  | .ab => packWord (opField w) (aField w) (bField w) 0#8
  | .abc => packWord (opField w) (aField w) (bField w) (cField w)
  | .s => packWord (opField w) (0#7 ++ (aField w).extractLsb' 0 1) 0#8 0#8
  | .tv => packWord (opField w) (0#6 ++ (aField w).extractLsb' 0 2) (0#4 ++ (bField w).extractLsb' 0 4) 0#8
  | .d => packWord (opField w) (0#1 ++ displayField w) 0#8 0#8

/-- A byte whose must-be-zero bits are all its bits is zero, and one with upper bits clear is its lower bits. -/
theorem byte_of_mask :
    ∀ x : Byte, (x &&& 0xFF#8 = 0#8 → x = 0#8) ∧ (x &&& 0xFE#8 = 0#8 → x = 0#7 ++ x.extractLsb' 0 1) ∧
      (x &&& 0xFC#8 = 0#8 → x = 0#6 ++ x.extractLsb' 0 2) ∧ (x &&& 0xF0#8 = 0#8 → x = 0#4 ++ x.extractLsb' 0 4) ∧
      (x &&& 0x80#8 = 0#8 → x = 0#1 ++ x.extractLsb' 0 7) := by
  decide

/-- A word that passes the must-be-zero test of a format carries its operand fields and nothing else. -/
theorem eq_cleanWord (w : OpWord) (f : Format) (h : w &&& formatMask f = opField w ++ 0#24) : w = cleanWord f w := by
  obtain ⟨ha, hb, hc⟩ := (mask_test w f).1 h
  obtain ⟨a0, a1, a2, -, a7⟩ := byte_of_mask (aField w)
  obtain ⟨b0, -, -, b4, -⟩ := byte_of_mask (bField w)
  obtain ⟨c0, -⟩ := byte_of_mask (cField w)
  refine (packWord_fields w).symm.trans ?_
  cases f with
  | n => exact (packWord_inj ..).2 ⟨rfl, a0 ha, b0 hb, c0 hc⟩
  | a => exact (packWord_inj ..).2 ⟨rfl, rfl, b0 hb, c0 hc⟩
  | ab => exact (packWord_inj ..).2 ⟨rfl, rfl, rfl, c0 hc⟩
  | abc => exact (packWord_inj ..).2 ⟨rfl, rfl, rfl, rfl⟩
  | s => exact (packWord_inj ..).2 ⟨rfl, a1 ha, b0 hb, c0 hc⟩
  | tv => exact (packWord_inj ..).2 ⟨rfl, a2 ha, b4 hb, c0 hc⟩
  | d => exact (packWord_inj ..).2 ⟨rfl, a7 ha, b0 hb, c0 hc⟩

/-- The bit of a line level comes back out of it (30_encoding.md R104). -/
theorem bitOfLevel_levelOfBit : ∀ b : Bit, bitOfLevel (levelOfBit b) = b := by decide

/-- A display word is accepted when its operand is at most 99 (30_encoding.md R94 (c)). -/
theorem displayInstr_eq_ok_iff (mk : BitVec 7 → Instr) (w : OpWord) (i : Instr) :
    displayInstr mk w = .ok i ↔ (displayField w).toNat ≤ 99 ∧ i = mk (displayField w) := by
  unfold displayInstr
  split_ifs with h <;> simp [h, eq_comm]

/-- What the decoder reads from the operand fields of a word, the encoder puts back there (30_encoding.md R92, R93). -/
theorem encode_instrOfWord (w : OpWord) (f : Format) (i : Instr) (hf : opFormat (opField w) = some f)
    (h : instrOfWord w = .ok i) : encode i = cleanWord f w ∧ i.wellFormed = true := by
  unfold instrOfWord at h
  split at h
  case h_22 => cases h
  all_goals
    rename_i hop
    obtain rfl := Option.some.inj (hf.symm.trans (congrArg opFormat hop))
    simp only [cleanWord, hop]
  case h_9 => cases h; exact ⟨by rw [encode, bitOfLevel_levelOfBit], rfl⟩
  case h_14 => cases h; exact ⟨by rw [encode, BitVec.val_toFin, BitVec.ofNat_toNat, BitVec.setWidth_eq], rfl⟩
  case h_16 | h_17 =>
    obtain ⟨hn, rfl⟩ := (displayInstr_eq_ok_iff _ w i).1 h
    exact ⟨rfl, decide_eq_true hn⟩
  all_goals cases h; exact ⟨rfl, rfl⟩

/-- Settles O2: the encoder puts the operand fields back, and a word that passes the must-be-zero test has no other bit. -/
theorem encodeDecodeRoundTrip : Obligations.EncodeDecodeRoundTrip := by
  intro w i h
  obtain ⟨f, hf, hmask, hi⟩ := (decode_eq_ok_iff w i).1 h
  obtain ⟨henc, hwf⟩ := encode_instrOfWord w f i hf hi
  exact ⟨henc.trans (eq_cleanWord w f hmask).symm, hwf⟩

/-- The table row of an operation code and its format: the mask is the format's, the match the operation code alone. -/
def rowOf (op : Byte) (f : Format) : OpRow := ⟨formatMask f, op ++ 0#24⟩

/-- The 21 rows are those of the operation codes that have a format (30_encoding.md R91, R93). -/
theorem mem_opRows_iff (r : OpRow) : r ∈ opRows ↔ ∃ op f, opFormat op = some f ∧ r = rowOf op f := by
  constructor
  · have hrows : ∀ r ∈ opRows, ∃ f, opFormat (opField r.pattern) = some f ∧ r = rowOf (opField r.pattern) f := by
      decide
    exact fun hr => ⟨_, hrows r hr⟩
  · rintro ⟨op, f, hf, rfl⟩
    unfold opFormat at hf
    split at hf
    case h_22 => cases hf
    all_goals cases hf; decide

/-- A row selects a word when the word has its operation code and clean must-be-zero bits (30_encoding.md R91). -/
theorem rowOf_selects_iff (op : Byte) (f : Format) (w : OpWord) :
    (rowOf op f).selects w = true ↔ op = opField w ∧ w &&& formatMask f = opField w ++ 0#24 := by
  have hop : opField (w &&& formatMask f) = opField w := by
    conv_lhs => rw [← packWord_fields w, formatMask_fields, packWord_and, opField_packWord]
    exact BitVec.and_allOnes
  rw [OpRow.selects, beq_iff_eq, rowOf]
  refine ⟨fun h => ?_, fun ⟨hw, h⟩ => hw ▸ h⟩
  have hw : op = opField w := by
    rw [← hop, h, opField_only, opField_packWord]
  exact ⟨hw, hw ▸ h⟩

/-- Settles O4: a row that selects a word is the row of the word's own operation code, and a code has one format. -/
theorem tableRowsDoNotOverlap : Obligations.TableRowsDoNotOverlap := by
  intro w r r' hr hr' hs hs'
  obtain ⟨op, f, hf, rfl⟩ := (mem_opRows_iff r).1 hr
  obtain ⟨op', f', hf', rfl⟩ := (mem_opRows_iff r').1 hr'
  obtain ⟨rfl, -⟩ := (rowOf_selects_iff op f w).1 hs
  obtain ⟨rfl, -⟩ := (rowOf_selects_iff op' f' w).1 hs'
  rw [Option.some.inj (hf.symm.trans hf')]

/-- Some row selects a word exactly when its operation code has a format and its must-be-zero bits are clear. -/
theorem exists_row_selects_iff (w : OpWord) :
    (∃ r ∈ opRows, r.selects w = true) ↔
      ∃ f, opFormat (opField w) = some f ∧ w &&& formatMask f = opField w ++ 0#24 := by
  constructor
  · rintro ⟨r, hr, hs⟩
    obtain ⟨op, f, hf, rfl⟩ := (mem_opRows_iff r).1 hr
    obtain ⟨rfl, hmask⟩ := (rowOf_selects_iff op f w).1 hs
    exact ⟨f, hf, hmask⟩
  · rintro ⟨f, hf, hmask⟩
    exact ⟨_, (mem_opRows_iff _).2 ⟨_, f, hf, rfl⟩, (rowOf_selects_iff _ f w).2 ⟨rfl, hmask⟩⟩

/-- Of the operation codes in the table only the two displays refuse an operand, those above 99 (30_encoding.md R94 (c)). -/
theorem exists_instrOfWord_iff (w : OpWord) (f : Format) (hf : opFormat (opField w) = some f) :
    (∃ i, instrOfWord w = .ok i) ↔
      ¬ ((opField w = 0x42#8 ∨ opField w = 0x43#8) ∧ 99 < (displayField w).toNat) := by
  unfold opFormat at hf
  split at hf
  case h_22 => cases hf
  all_goals rename_i hop; simp [instrOfWord, hop, displayInstr_eq_ok_iff]

/-- Settles O3: both sides ask that the operation code have a format and its must-be-zero bits be clear; what is left of
the decoder's answer is the bound on a display operand. -/
theorem decoderAcceptsExactlyTheTable : Obligations.DecoderAcceptsExactlyTheTable := by
  intro w
  simp only [decode_eq_ok_iff, exists_row_selects_iff]
  constructor
  · rintro ⟨i, f, hf, hmask, hi⟩
    exact ⟨⟨f, hf, hmask⟩, (exists_instrOfWord_iff w f hf).1 ⟨i, hi⟩⟩
  · rintro ⟨⟨f, hf, hmask⟩, hdisplay⟩
    obtain ⟨i, hi⟩ := (exists_instrOfWord_iff w f hf).2 hdisplay
    exact ⟨i, f, hf, hmask, hi⟩

/-- Settles O5: ten fixed words, decoded. -/
theorem sampleWordsDecode : Obligations.SampleWordsDecode := by
  unfold Obligations.SampleWordsDecode
  decide

end Sys2Proof

/-! ### The fetch, and the program counter (10_state.md R30 to R33) -/

namespace Sys2Proof.Machine

/-- With nothing pending, a word that is no operation is refused by the decoder's reason (30_encoding.md R94). -/
theorem makeMove_main_refused (s : State) (w : OpWord) (e : DecodeError) (hc : s.cont = []) (hw : fetchWord s = some w)
    (he : decode w = .error e) : makeMove .main s = .refused (decodeRefusal w e) := by
  simp [makeMove, mainStep, fetchStep, hc, hw, he]

/-- With nothing pending, the main context's move is the operation at `pc` (10_state.md R31). -/
theorem makeMove_main_fetch (s : State) (w : OpWord) (i : Instr) (hc : s.cont = []) (hw : fetchWord s = some w)
    (hi : decode w = .ok i) : makeMove .main s = exec i s := by
  simp [makeMove, mainStep, fetchStep, hc, hw, hi]

/-- A display word above 99 that passes the must-be-zero test is refused for its operand. -/
theorem decode_display_above_99 (w : OpWord) (f : Format) (hf : opFormat (opField w) = some f)
    (hmask : w &&& formatMask f = opField w ++ 0#24) (hop : opField w = 0x42#8 ∨ opField w = 0x43#8)
    (hn : 99 < (displayField w).toNat) : decode w = .error .reservedOperand := by
  rw [decode_of_format w f hf hmask]
  rcases hop with hop | hop <;> simp [instrOfWord, hop, displayInstr, hn]

/-- Settles O8: the decoder's three errors, each met at the fetch. -/
theorem illegalAndReservedWordsRefused : Obligations.IllegalAndReservedWordsRefused := by
  intro s w hc hw
  refine ⟨fun hf => ?_, fun f hf hmask => ?_, fun f hf hmask hop hn => ?_⟩
  · exact makeMove_main_refused s w .illegalOp hc hw (by simp [decode, hf])
  · exact makeMove_main_refused s w .reservedBits hc hw (by simp [decode, hf, hmask])
  · exact makeMove_main_refused s w .reservedOperand hc hw (decode_display_above_99 w f hf hmask hop hn)

/-- The main context's move, when it is next among the pending ones. -/
theorem step_main (s : State) (rest : List Move) (h : s.inputs = .main :: rest) :
    step s = makeMove .main { s with inputs := rest } := by
  simp [step, nextMove, dropMove, h]

/-- Settles O6: the step makes the main context's move, which fetches. -/
theorem stepRunsTheDecodedInstruction : Obligations.StepRunsTheDecodedInstruction := by
  intro s w i rest hin hc hw hi
  rw [step_main s rest hin]
  exact makeMove_main_fetch { s with inputs := rest } w i hc hw hi

/-- Settles O10: the word is placed at `pc` and the main context's move before the pending ones, so the step fetches it. -/
theorem placedWordIsTheNextInstruction : Obligations.PlacedWordIsTheNextInstruction := by
  intro s w i h
  have hi : decode (BitVec.ofNat 32 (w % 2 ^ 32)) = .ok i := by
    unfold decodeTableWord at h
    rw [if_pos le_rfl] at h
    split at h
    · rename_i hd
      rw [hd, Option.some.inj h]
    · cases h
  rw [step_main _ s.inputs rfl]
  refine makeMove_main_fetch _ _ i rfl ?_ hi
  simp [fetchWord, State.withFetchWord, placeWord]

/-- Going on leaves `pc`, or ends the operation and advances it (10_state.md R30). -/
theorem goOn_pc (rest : List MicroStep) (s : State) :
    (goOn rest s).pc = s.pc ∨ ((goOn rest s).cont = [] ∧
      (goOn rest s).pc = if s.pc + 1 = s.par.program.length ∧ s.par.loops = true then 0 else s.pc + 1) := by
  cases rest with
  | nil => exact .inr ⟨by simp, advancePc_pc s⟩
  | cons m rest => exact .inl rfl

theorem runMicro_pc (m : MicroStep) (rest : List MicroStep) (s s' : State) (h : runMicro m rest s = .next s') :
    s'.pc = s.pc ∨ (s'.cont = [] ∧
      s'.pc = if s.pc + 1 = s.par.program.length ∧ s.par.loops = true then 0 else s.pc + 1) := by
  rcases runMicro_next m rest s s' h with ⟨a, s1, -, ha, rfl⟩ | ⟨-, -, rfl⟩ | ⟨-, -, rfl⟩ | ⟨c, b, -, rfl⟩
  · obtain ⟨hpar, hpc, -⟩ := performAction_frame a s s1 ha
    simpa [hpar, hpc] using goOn_pc rest s1
  · exact goOn_pc rest { s with opDone := false }
  · exact .inl rfl
  · exact goOn_pc _ s

theorem mainStep_pc (s s' : State) (h : mainStep s = .next s') :
    s'.pc = s.pc ∨ (s'.cont = [] ∧
      s'.pc = if s.pc + 1 = s.par.program.length ∧ s.par.loops = true then 0 else s.pc + 1) := by
  rcases mainStep_next s s' h with ⟨-, rfl⟩ | ⟨-, level, w, -, -, rfl⟩ | ⟨m, rest, hm, -⟩
  · exact .inl rfl
  · exact .inr ⟨by simp, by simpa [takeTick] using advancePc_pc (takeTick level s)⟩
  · exact runMicro_pc m rest s s' hm

/-- Who writes `pc`: the main context at the end of an operation, and RESET (10_state.md R30, R52). -/
theorem makeMove_pc (m : Move) (s s' : State) (h : makeMove m s = .next s') :
    s'.pc = s.pc ∨ (m = .main ∧ s'.cont = [] ∧
      s'.pc = if s.pc + 1 = s.par.program.length ∧ s.par.loops = true then 0 else s.pc + 1) ∨
    (isReset m = true ∧ s'.pc = 0) := by
  cases m with
  | main => simpa [isReset] using mainStep_pc s s' h
  | tick level => cases h; simp [takeTick]
  | complete ans => cases h; simp
  | rtcTick => cases h; simp
  | rtcSet hours minutes seconds => cases h; simp [rtcSetTime]
  | noResp => cases h; exact .inl rfl
  | reset sel => cases h; exact .inr (.inr ⟨rfl, rfl⟩)

/-- A finished main context has no step (10_state.md R33). -/
theorem makeMove_main_finished (s : State) (hc : s.cont = []) (hpc : s.par.program.length ≤ s.pc) :
    makeMove .main s = .next s := by
  simp [makeMove, mainStep, fetchStep, fetchWord, hc, List.getElem?_eq_none hpc]

/-- Settles O7: the step makes the main context's move, and only the end of an operation and RESET write `pc`. -/
theorem stepRunsThePendingMicroStep : Obligations.StepRunsThePendingMicroStep := by
  refine ⟨fun s m more rest hin hc => ?_, fun s => ⟨rfl, ?_⟩, fun s m more => rfl, makeMove_main_finished, makeMove_pc⟩
  · rw [step_main s rest hin]
    exact makeMove_main_cons { s with inputs := rest } m more hc
  · unfold advancePc
    split_ifs <;> rfl

/-- One step of a machine, then the others. -/
theorem core_run_succ (M : Host.Core) (k : Nat) (s s1 : M.State) (h : M.step s = .next s1) :
    M.run (k + 1) s = M.run k s1 := by
  simp [Host.Core.run, h]

/-- Settles O9: by induction on the moves; no move looks at the moves still pending, which it keeps. -/
theorem stepsFollowTheSchedule : Obligations.StepsFollowTheSchedule := by
  intro ms
  induction ms with
  | nil => exact fun rest s u h => h
  | cons m ms ih =>
    intro rest s u h
    rw [runMoves] at h
    cases hm : makeMove m { s with inputs := rest } with
    | fault f => rw [hm] at h; cases h
    | refused r => rw [hm] at h; cases h
    | next s1 =>
      rw [hm] at h
      have hany (l : List Move) : makeMove m { s with inputs := l } = .next { s1 with inputs := l } :=
        makeMove_inputs m { s with inputs := rest } s1 l hm
      have hkept : s1 = { s1 with inputs := rest } := Host.Outcome.next.inj (hm.symm.trans (hany rest))
      have hstep : step { s with inputs := m :: ms ++ rest } = .next { s1 with inputs := ms ++ rest } := hany (ms ++ rest)
      rw [hkept] at h
      exact (core_run_succ Sys2Proof.core ms.length _ _ hstep).trans (ih rest s1 u h)

end Sys2Proof.Machine

/-! ### What every step keeps (10_state.md R20, R40, R52, 42_inputdebouncer.md R162, 40_timebus.md R122 to R124) -/

namespace Sys2Proof.Machine

/-- A micro-step writes no HOLD and sets no flag (10_state.md R52). -/
theorem runMicro_debouncer (m : MicroStep) (rest : List MicroStep) (s s' : State) (h : runMicro m rest s = .next s') :
    s'.hold = s.hold ∧ (s'.sp = true → s.sp = true) ∧ (s'.lp = true → s.lp = true) := by
  rcases runMicro_next m rest s s' h with ⟨a, s1, -, ha, rfl⟩ | ⟨-, -, rfl⟩ | ⟨-, -, rfl⟩ | ⟨c, b, -, rfl⟩
  · obtain ⟨-, -, -, hhold, -, -, -, -, -, -, hsp, hlp⟩ := performAction_frame a s s1 ha
    simpa [hhold] using And.intro hsp hlp
  · simp
  · simp
  · simp

/-- Settles O20: a micro-step writes no HOLD and sets no flag; what is left is the fetch of a TICK, which is excluded. -/
theorem mainContextNeverWritesTheDebouncer : Obligations.MainContextNeverWritesTheDebouncer := by
  intro s s' h hnotick
  rcases mainStep_next s s' h with ⟨-, rfl⟩ | ⟨hc, level, w, hw, hd, -⟩ | ⟨m, rest, hm, -⟩
  · simp
  · exact absurd hd (hnotick hc w level hw)
  · exact runMicro_debouncer m rest s s' hm

theorem runMicro_rtcMem (m : MicroStep) (rest : List MicroStep) (s s' : State) (h : runMicro m rest s = .next s') :
    s'.rtcMem = s.rtcMem := by
  rcases runMicro_next m rest s s' h with ⟨a, s1, -, ha, rfl⟩ | ⟨-, -, rfl⟩ | ⟨-, -, rfl⟩ | ⟨c, b, -, rfl⟩
  · obtain ⟨-, -, -, -, -, hmem, -⟩ := performAction_frame a s s1 ha
    simpa using hmem
  · simp
  · rfl
  · simp

/-- Every move keeps the device's memory in canonical form. -/
theorem makeMove_wf (m : Move) (s s' : State) (h : makeMove m s = .next s') (hs : s.rtcMem.wf = true) :
    s'.rtcMem.wf = true := by
  cases m with
  | main =>
    rcases mainStep_next s s' h with ⟨-, rfl⟩ | ⟨-, level, w, -, -, rfl⟩ | ⟨m, rest, hm, -⟩
    · exact hs
    · simpa [takeTick] using hs
    · rw [runMicro_rtcMem m rest s s' hm]; exact hs
  | tick level => cases h; simpa [takeTick] using hs
  | complete ans => cases h; exact completeBusOp_wf ans s hs
  | rtcTick => cases h; exact rtcTick_wf s hs
  | rtcSet hours minutes seconds => cases h; exact rtcSetTime_wf _ _ _ s hs
  | noResp => cases h; exact hs
  | reset sel => cases h; exact hs

/-- A sample keeps the counter at most 100 (42_inputdebouncer.md R162). -/
theorem sampleButton_hold_le (level : Level) (s : State) (h : s.hold.toNat ≤ 100) :
    (sampleButton level s).hold.toNat ≤ 100 := by
  cases level with
  | pressed =>
    rw [sampleButton_pressed_hold s h]
    simp only [BitVec.toNat_ofNat]
    omega
  | released => simp [sampleButton_released]

/-- Every move keeps the counter at most 100. -/
theorem makeMove_hold_le (m : Move) (s s' : State) (h : makeMove m s = .next s') (hs : s.hold.toNat ≤ 100) :
    s'.hold.toNat ≤ 100 := by
  cases m with
  | main =>
    rcases mainStep_next s s' h with ⟨-, rfl⟩ | ⟨-, level, w, -, -, rfl⟩ | ⟨m, rest, hm, -⟩
    · exact hs
    · simpa [takeTick] using sampleButton_hold_le level s hs
    · obtain ⟨hhold, -⟩ := runMicro_debouncer m rest s s' hm
      rw [hhold]; exact hs
  | tick level => cases h; exact sampleButton_hold_le level s hs
  | complete ans => cases h; simpa using hs
  | rtcTick => cases h; simpa using hs
  | rtcSet hours minutes seconds => cases h; simpa [rtcSetTime] using hs
  | noResp => cases h; exact hs
  | reset sel => cases h; exact Nat.zero_le _

/-- Every move keeps MODE off 3: the three assignments and RESET write 0, 1 or 2 (10_state.md R40). -/
theorem makeMove_mode_ne_three (m : Move) (s s' : State) (h : makeMove m s = .next s') (hs : s.mode ≠ 3#2) :
    s'.mode ≠ 3#2 := by
  rcases makeMove_mode m s s' h with hm | ⟨-, -, hm⟩ | ⟨-, -, hm⟩ | ⟨-, -, hm⟩ | ⟨-, hm⟩ <;> rw [hm]
  · exact hs
  all_goals decide

/-- The bus is in step with the main context: at an await an operation is in flight or just complete; elsewhere the bus is
at rest (40_timebus.md R122 to R124). -/
theorem busConsistent_iff (s : State) :
    busConsistent s = true ↔
      (∃ rest, s.cont = .await :: rest ∧ pairedSteps rest = true ∧ (s.opDone = true ↔ s.busop = .none)) ∨
      (pairedSteps s.cont = true ∧ s.busop = .none ∧ s.opDone = false) := by
  unfold busConsistent
  split
  · rename_i rest hc
    cases s.opDone <;> simp [hc, pairedSteps]
  · rename_i hc
    have hno : ¬ ∃ rest, s.cont = .await :: rest ∧ pairedSteps rest = true ∧ (s.opDone = true ↔ s.busop = .none) :=
      fun ⟨rest, h, _⟩ => hc rest h
    simp [hno, and_assoc]

/-- A bus at rest and paired micro-steps pending. -/
theorem busConsistent_goOn (rest : List MicroStep) (s : State) (hp : pairedSteps rest = true) (hb : s.busop = .none)
    (hd : s.opDone = false) : busConsistent (goOn rest s) = true :=
  (busConsistent_iff _).2 (.inr ⟨by simpa using hp, by simpa using hb, by simpa using hd⟩)

/-- Pairing says what may follow an action: an issue is followed by its await, anything else by paired micro-steps. -/
theorem pairedSteps_act (a : Action) (rest : List MicroStep) (h : pairedSteps (.act a :: rest) = true) :
    ((∀ c, a ≠ .issue c) ∧ pairedSteps rest = true) ∨
    (∃ c rest', a = .issue c ∧ rest = .await :: rest' ∧ pairedSteps rest' = true) := by
  cases a with
  | issue c =>
    cases rest with
    | nil => simp [pairedSteps] at h
    | cons m rest' =>
      cases m with
      | await => exact .inr ⟨c, rest', rfl, rfl, by simpa [pairedSteps] using h⟩
      | act b => simp [pairedSteps] at h
      | ifSet b k => simp [pairedSteps] at h
  | _ => exact .inl ⟨by simp, by simpa [pairedSteps] using h⟩

/-- A register action of paired micro-steps, made while the bus is at rest, leaves bus and main context in step. -/
theorem performAction_busConsistent (a : Action) (rest : List MicroStep) (s s1 : State)
    (h : performAction a s = .ok s1) (hp : pairedSteps (.act a :: rest) = true) (hb : s.busop = .none)
    (hd : s.opDone = false) : busConsistent (goOn rest s1) = true := by
  rcases pairedSteps_act a rest hp with ⟨ha, hrest⟩ | ⟨c, rest', rfl, rfl, hrest⟩
  · obtain ⟨hb1, hd1⟩ := performAction_bus a s s1 h ha
    exact busConsistent_goOn rest s1 hrest (hb1.trans hb) (hd1.trans hd)
  · refine (busConsistent_iff _).2 (.inl ⟨rest', rfl, hrest, ?_⟩)
    obtain ⟨-, ⟨-, rfl⟩ | ⟨b, -, -, rfl⟩ | ⟨-, -, rfl⟩⟩ := performAction_issue c s s1 h <;> simp

/-- A micro-step of paired micro-steps, made while the bus is at rest, leaves bus and main context in step. -/
theorem runMicro_busConsistent (m : MicroStep) (rest : List MicroStep) (s s' : State)
    (h : runMicro m rest s = .next s') (hp : pairedSteps (m :: rest) = true) (hb : s.busop = .none)
    (hd : s.opDone = false) : busConsistent s' = true := by
  rcases runMicro_next m rest s s' h with ⟨a, s1, rfl, ha, rfl⟩ | ⟨rfl, -, -⟩ | ⟨rfl, -, -⟩ | ⟨c, b, rfl, rfl⟩
  · exact performAction_busConsistent a rest s s1 ha hp hb hd
  · simp [pairedSteps] at hp
  · simp [pairedSteps] at hp
  · have hrest : pairedSteps rest = true := by simpa [pairedSteps] using hp
    have hblock : pairedSteps (if condHolds c s then blockSteps b else []) = true := by
      split_ifs
      · exact block_paired b
      · rfl
    exact busConsistent_goOn _ s (pairedSteps_append _ _ hblock hrest) hb hd

/-- An await, taken or still blocked, leaves bus and main context in step. -/
theorem runMicro_await_busConsistent (rest : List MicroStep) (s s' : State) (h : runMicro .await rest s = .next s')
    (hc : s.cont = .await :: rest) (hs : busConsistent s = true) : busConsistent s' = true := by
  rcases (busConsistent_iff s).1 hs with ⟨rest', hc', hrest, hbus⟩ | ⟨hp, -, -⟩
  · obtain rfl : rest = rest' := by simpa using hc.symm.trans hc'
    rcases runMicro_next .await rest s s' h with ⟨_, _, hm, -⟩ | ⟨-, hd, rfl⟩ | ⟨-, -, rfl⟩ | ⟨_, _, hm, -⟩
    · cases hm
    · exact busConsistent_goOn rest _ hrest (hbus.1 hd) rfl
    · exact hs
    · cases hm
  · rw [hc] at hp
    simp [pairedSteps] at hp

/-- The main context's move keeps bus and main context in step. -/
theorem mainStep_busConsistent (s s' : State) (h : mainStep s = .next s') (hs : busConsistent s = true) :
    busConsistent s' = true := by
  have hrest : ∀ ms, s.cont = ms → (∀ rest, ms ≠ .await :: rest) → pairedSteps ms = true ∧ s.busop = .none ∧
      s.opDone = false := by
    rintro ms rfl hne
    rcases (busConsistent_iff s).1 hs with ⟨rest, hc, -⟩ | hquiet
    · exact absurd hc (hne rest)
    · exact hquiet
  rcases mainStep_next s s' h with ⟨-, rfl⟩ | ⟨hc, level, w, -, -, rfl⟩ | ⟨m, rest, hm, hc | ⟨hc, i, w, -, -, hx⟩⟩
  · exact hs
  · obtain ⟨-, hb, hd⟩ := hrest [] hc (by simp)
    exact busConsistent_goOn [] _ rfl (by simpa [takeTick] using hb) (by simpa [takeTick] using hd)
  · by_cases hawait : m = .await
    · subst hawait
      exact runMicro_await_busConsistent rest s s' hm hc hs
    · obtain ⟨hp, hb, hd⟩ := hrest _ hc (by simp [hawait])
      exact runMicro_busConsistent m rest s s' hm hp hb hd
  · obtain ⟨-, hb, hd⟩ := hrest [] hc (by simp)
    exact runMicro_busConsistent m rest s s' hm (hx ▸ (expansion_shape i s).1) hb hd

/-- A completion with nothing in flight, or while the bus does not respond, changes nothing (40_timebus.md R124, R125). -/
theorem completeBusOp_idle (ans : BusAnswer) (s : State) (h : ¬ (s.responding = true ∧ s.busop ≠ .none)) :
    completeBusOp ans s = s := by
  unfold completeBusOp
  split_ifs with hr
  · rw [not_not.1 fun hb => h ⟨hr, hb⟩]
  · rfl

/-- A completion finds the main context at the await of the operation it ends (40_timebus.md R124). -/
theorem completeBusOp_busConsistent (ans : BusAnswer) (s : State) (hs : busConsistent s = true) :
    busConsistent (completeBusOp ans s) = true := by
  by_cases hidle : s.responding = true ∧ s.busop ≠ .none
  · obtain ⟨hr, hb⟩ := hidle
    rcases (busConsistent_iff s).1 hs with ⟨rest, hc, hrest, -⟩ | ⟨-, hnone, -⟩
    · obtain ⟨hb', hd', hc'⟩ := completeBusOp_done ans s hr hb
      exact (busConsistent_iff _).2 (.inl ⟨rest, hc'.trans hc, hrest, by simp [hb', hd']⟩)
    · exact absurd hnone hb
  · rwa [completeBusOp_idle ans s hidle]

/-- Every move keeps the bus in step with the main context. -/
theorem makeMove_busConsistent (m : Move) (s s' : State) (h : makeMove m s = .next s') (hs : busConsistent s = true) :
    busConsistent s' = true := by
  cases m with
  | main => exact mainStep_busConsistent s s' h hs
  | tick level => cases h; simpa [busConsistent, takeTick] using hs
  | complete ans => cases h; exact completeBusOp_busConsistent ans s hs
  | rtcTick => cases h; simpa [busConsistent] using hs
  | rtcSet hours minutes seconds => cases h; simpa [busConsistent, rtcSetTime] using hs
  | noResp => cases h; exact hs
  | reset sel => cases h; rfl

/-- The choice of a move is no part of the invariant. -/
theorem machineInv_dropMove (s : State) (h : MachineInv s) : MachineInv (dropMove s) := by
  simpa [MachineInv, busConsistent] using h

/-- Settles O14: a step is one move, and every move keeps each of the four parts. -/
theorem everyStepKeepsTheMachineInvariant : Obligations.EveryStepKeepsTheMachineInvariant := by
  intro s s' hinv h
  obtain ⟨hmem, hhold, hmode, hbus⟩ := machineInv_dropMove s hinv
  exact ⟨makeMove_wf _ _ _ h hmem, makeMove_hold_le _ _ _ h hhold, makeMove_mode_ne_three _ _ _ h hmode,
    makeMove_busConsistent _ _ _ h hbus⟩

end Sys2Proof.Machine

/-! ### The hardwired program (10_state.md R30, 40_timebus.md R121, 44_modecontroller.md R214) -/

namespace Sys2Proof.Machine

/-- The phase after two sequences is the phase after the second from where the first leaves it. -/
theorem phaseAfter_append (p : Phase) (a b : List MicroStep) :
    phaseAfter p (a ++ b) = (phaseAfter p a).bind fun q => phaseAfter q b := by
  fun_induction phaseAfter p a <;> simp_all [phaseAfter]

/-- Every block of MODESTEP is legal on an idle bus, leaves it idle, and shows working registers only. -/
theorem block_hardwired (b : Block) :
    phaseAfter .idle (blockSteps b) = some .idle ∧ (blockSteps b).all hardwiredStep = true := by
  cases b <;> decide

/-- So is every body of MODESTEP. -/
theorem modeBody_hardwired (s : State) :
    phaseAfter .idle (modeBody s) = some .idle ∧ (modeBody s).all hardwiredStep = true := by
  rcases mode_cases s with ⟨-, hb⟩ | ⟨-, hb⟩ | ⟨-, hb⟩ | ⟨-, hb⟩ <;> rw [hb]
  · decide
  · cases s.par.blankPush <;> decide
  · cases s.par.blankPush <;> decide
  · decide

/-- What is pending is legal from the phase the bus has or will have, ends with an idle bus, and shows working registers
only: the last two parts of `HardwiredInv`. -/
def PendingLegal (s : State) : Prop :=
  phaseAfter (settledPhase s) s.cont = some .idle ∧ s.cont.all hardwiredStep = true

/-- Why the hardwired program may be refused: a display of a working register above 99 (44_modecontroller.md R214). -/
def RefusedForDisplay (s : State) (r : Refusal) : Prop :=
  ∃ n, r = .displayOperand n ∧ 99 < n.toNat ∧ (n = s.wh ∨ n = s.wm)

/-- A digit of an operand at most 99 exists; above that the display is refused for it. -/
theorem displayDigit_cases (n : Byte) (digit : Nat → Nat) :
    (∃ v, displayDigit n digit = .ok v) ∨ (displayDigit n digit = .error (.displayOperand n) ∧ 99 < n.toNat) := by
  unfold displayDigit
  split_ifs with h
  · exact .inl ⟨_, rfl⟩
  · exact .inr ⟨rfl, by omega⟩

/-- A digit of a working register is refused only for the value of that register. -/
theorem digArg_hardwired (t : Fin 4) (v : DigArg) (s : State) (hw : hardwiredStep (.act (.setDig t v)) = true) :
    (∃ d, digArg v s = .ok d) ∨ (∃ r, digArg v s = .error r ∧ RefusedForDisplay s r) := by
  have hshow (x : Byte) (digit : Nat → Nat) (hx : x = s.wh ∨ x = s.wm) :
      (∃ d, displayDigit x digit = .ok d) ∨ (∃ r, displayDigit x digit = .error r ∧ RefusedForDisplay s r) :=
    (displayDigit_cases x digit).imp_right fun ⟨he, hn⟩ => ⟨_, he, x, rfl, hn, hx⟩
  cases v with
  | lit d => exact .inl ⟨d, rfl⟩
  | hi r => exact .inl ⟨_, rfl⟩
  | lo r => exact .inl ⟨_, rfl⟩
  | tens n =>
    cases n with
    | lit x => cases hw
    | wh => exact hshow s.wh (fun k => k / 10) (.inl rfl)
    | wm => exact hshow s.wm (fun k => k / 10) (.inr rfl)
  | units n =>
    cases n with
    | lit x => cases hw
    | wh => exact hshow s.wh (fun k => k % 10) (.inl rfl)
    | wm => exact hshow s.wm (fun k => k % 10) (.inr rfl)

/-- With nothing in flight the phase is settled. -/
theorem settledPhase_of_none (s : State) (hb : s.busop = .none) : settledPhase s = s.phase := by
  simp [settledPhase, hb]

/-- A register action that is legal where it stands answers a state from which the rest is legal, or is refused for a
display. -/
theorem performAction_hardwired (a : Action) (rest : List MicroStep) (s : State) (q : Phase) (hb : s.busop = .none)
    (hphase : phaseAfter (settledPhase s) (.act a :: rest) = some q) (hw : hardwiredStep (.act a) = true) :
    (∃ s1, performAction a s = .ok s1 ∧ phaseAfter (settledPhase s1) rest = some q) ∨
    (∃ r, performAction a s = .error r ∧ RefusedForDisplay s r) := by
  have hsettled := settledPhase_of_none s hb
  cases a with
  | issue c =>
    refine .inl ?_
    cases c with
    | start => exact ⟨handOver .start s, if_pos hb, hphase⟩
    | write x =>
      rw [phaseAfter, hsettled] at hphase
      split_ifs at hphase with hactive
      exact ⟨handOver (.write (byteArg x s)) s, (if_pos hb).trans (if_pos hactive),
        by simpa [settledPhase, hactive] using hphase⟩
    | read =>
      rw [phaseAfter, hsettled] at hphase
      split_ifs at hphase with hactive
      exact ⟨handOver .read s, (if_pos hb).trans (if_pos hactive), by simpa [settledPhase, hactive] using hphase⟩
  | stop =>
    rw [phaseAfter, hsettled] at hphase
    split_ifs at hphase with hactive
    exact .inl ⟨deviceFrame (emit .stop { s with phase := .idle }), if_pos hactive, by simpa [settledPhase, hb] using hphase⟩
  | setDig t v =>
    rcases digArg_hardwired t v s hw with ⟨d, hd⟩ | ⟨r, hr, hn⟩
    · exact .inl ⟨storeDigit t d s, by simp only [performAction, hd], hphase⟩
    · exact .inr ⟨r, by simp only [performAction, hr], hn⟩
  | loadTime r => cases r <;> exact .inl ⟨_, rfl, hphase⟩
  | _ => exact .inl ⟨_, rfl, hphase⟩

/-- Going on with micro-steps that are legal from here. -/
theorem pendingLegal_goOn (rest : List MicroStep) (s : State) (hphase : phaseAfter (settledPhase s) rest = some .idle)
    (hall : rest.all hardwiredStep = true) : PendingLegal (goOn rest s) := by
  simpa [PendingLegal, settledPhase] using And.intro hphase hall

/-- A conditional stands on an idle bus, and so does its block. -/
theorem ifSet_hardwired (c : Cond) (b : Block) (rest : List MicroStep) (s : State)
    (hphase : phaseAfter (settledPhase s) (.ifSet c b :: rest) = some .idle)
    (hall : rest.all hardwiredStep = true) :
    PendingLegal (goOn ((if condHolds c s then blockSteps b else []) ++ rest) s) := by
  rw [phaseAfter] at hphase
  split_ifs at hphase with hidle
  obtain ⟨hblock, hshow⟩ := block_hardwired b
  split_ifs
  · exact pendingLegal_goOn _ s (by rw [phaseAfter_append, hidle, hblock]; exact hphase) (by simp [hshow, hall])
  · exact pendingLegal_goOn _ s (by rw [hidle]; exact hphase) hall

/-- A micro-step that is legal where it stands answers a state with legal micro-steps pending, or is refused for a display. -/
theorem runMicro_hardwired (m : MicroStep) (rest : List MicroStep) (s : State)
    (hb : m ≠ .await → s.busop = .none) (hc : m = .await → s.cont = .await :: rest)
    (hphase : phaseAfter (settledPhase s) (m :: rest) = some .idle) (hall : (m :: rest).all hardwiredStep = true) :
    (∃ s', runMicro m rest s = .next s' ∧ PendingLegal s') ∨
    (∃ r, runMicro m rest s = .refused r ∧ RefusedForDisplay s r) := by
  rw [List.all_cons, Bool.and_eq_true] at hall
  obtain ⟨hw, hrest⟩ := hall
  cases m with
  | act a =>
    rcases performAction_hardwired a rest s .idle (hb (by simp)) hphase hw with ⟨s1, h1, hp1⟩ | ⟨r, hr, hn⟩
    · exact .inl ⟨goOn rest s1, by simp only [runMicro, h1], pendingLegal_goOn rest s1 hp1 hrest⟩
    · exact .inr ⟨r, by simp only [runMicro, hr], hn⟩
  | await =>
    by_cases hd : s.opDone = true
    · exact .inl ⟨_, if_pos hd, pendingLegal_goOn rest { s with opDone := false } hphase hrest⟩
    · exact .inl ⟨s, if_neg hd, by rw [PendingLegal, hc rfl]; exact ⟨hphase, hrest⟩⟩
  | ifSet c b => exact .inl ⟨_, rfl, ifSet_hardwired c b rest s hphase hrest⟩

/-- The hardwired program holds one word, MODESTEP, at `pc` 0, and MODE selects a body. -/
theorem mainStep_fetch_hardwired (s : State) (hprog : s.par.program = [0x50000000#32]) (hpc : s.pc = 0)
    (hmode : s.mode ≠ 3#2) (hc : s.cont = []) :
    ∃ m rest, modeBody s = m :: rest ∧ m ≠ .await ∧ mainStep s = runMicro m rest s := by
  have hfetch : mainStep s = exec .modestep s :=
    makeMove_main_fetch s 0x50000000#32 .modestep hc (by simp [fetchWord, hprog, hpc]) (by decide)
  rcases exec_cases .modestep s with ⟨level, hi, -⟩ | ⟨-, hm, -⟩ | ⟨-, hne, he⟩
  · cases hi
  · exact absurd hm hmode
  · cases hx : expansionOf .modestep s with
    | nil => exact absurd hx hne
    | cons m rest =>
      obtain ⟨a, rfl, -⟩ := (expansion_shape .modestep s).2 m rest hx
      exact ⟨_, rest, hx, by simp, by rw [hfetch, he, hx]; rfl⟩

/-- The main context of the real block goes on, or is refused for a display. -/
theorem mainStep_hardwired (s : State) (h : HardwiredInv s) :
    (∃ s', mainStep s = .next s' ∧ PendingLegal s') ∨ (∃ r, mainStep s = .refused r ∧ RefusedForDisplay s r) := by
  obtain ⟨hprog, -, hpc, hmode, hbus, hphase, hall⟩ := h
  have hquiet (hno : ∀ rest, s.cont ≠ .await :: rest) : s.busop = .none := by
    rcases (busConsistent_iff s).1 hbus with ⟨rest, hc, -⟩ | ⟨-, hb, -⟩
    · exact absurd hc (hno rest)
    · exact hb
  cases hc : s.cont with
  | nil =>
    obtain ⟨m, rest, hx, hm, he⟩ := mainStep_fetch_hardwired s hprog hpc hmode hc
    have hidle : settledPhase s = .idle := by simpa [hc, phaseAfter] using hphase
    obtain ⟨hbody, hshow⟩ := modeBody_hardwired s
    rw [he]
    exact runMicro_hardwired m rest s (fun _ => hquiet (by simp [hc])) (fun ha => absurd ha hm)
      (by rw [hidle, ← hx]; exact hbody) (hx ▸ hshow)
  | cons m rest =>
    have he : mainStep s = runMicro m rest s := makeMove_main_cons s m rest hc
    rw [he]
    exact runMicro_hardwired m rest s (fun ha => hquiet (by simp [hc, ha])) (fun ha => ha ▸ hc) (hc ▸ hphase) (hc ▸ hall)

/-- A completion makes the phase what it was to become. -/
theorem completeBusOp_settledPhase (ans : BusAnswer) (s : State) : settledPhase (completeBusOp ans s) = settledPhase s := by
  by_cases hidle : s.responding = true ∧ s.busop ≠ .none
  · obtain ⟨hr, -⟩ := hidle
    cases hb : s.busop <;> cases ans <;>
      simp [completeBusOp, hr, hb, settledPhase, completeStart, completeWrite, completeRead]
  · rw [completeBusOp_idle ans s hidle]

/-- A move of any agent leaves legal micro-steps pending, or is the main context's, refused for a display. -/
theorem makeMove_hardwired (m : Move) (s : State) (h : HardwiredInv s) :
    (∃ s', makeMove m s = .next s' ∧ PendingLegal s') ∨ (∃ r, makeMove m s = .refused r ∧ RefusedForDisplay s r) := by
  have hp : PendingLegal s := by
    obtain ⟨-, -, -, -, -, hp⟩ := h
    exact hp
  cases m with
  | main => exact mainStep_hardwired s h
  | tick level => exact .inl ⟨_, rfl, by simpa [PendingLegal, settledPhase, takeTick] using hp⟩
  | complete ans => exact .inl ⟨_, rfl, by simpa [PendingLegal, completeBusOp_settledPhase] using hp⟩
  | rtcTick => exact .inl ⟨_, rfl, by simpa [PendingLegal, settledPhase] using hp⟩
  | rtcSet hours minutes seconds => exact .inl ⟨_, rfl, by simpa [PendingLegal, settledPhase, rtcSetTime] using hp⟩
  | noResp => exact .inl ⟨_, rfl, hp⟩
  | reset sel => exact .inl ⟨_, rfl, rfl, rfl⟩

/-- A looping PROGRAM of one word keeps `pc` at 0 (10_state.md R30). -/
theorem makeMove_pc_zero (m : Move) (s s' : State) (h : makeMove m s = .next s') (hpc : s.pc = 0)
    (hlen : s.par.program.length = 1) (hloops : s.par.loops = true) : s'.pc = 0 := by
  rcases makeMove_pc m s s' h with hp | ⟨-, -, hp⟩ | ⟨-, hp⟩ <;> rw [hp]
  · exact hpc
  · rw [if_pos ⟨by omega, hloops⟩]

/-- The choice of a move is no part of the invariant. -/
theorem hardwiredInv_dropMove (s : State) (h : HardwiredInv s) : HardwiredInv (dropMove s) := by
  simpa [HardwiredInv, busConsistent, settledPhase] using h

/-- Settles O15: a move is refused only for a display; else it leaves legal micro-steps pending, and the other parts of the
invariant are kept by every move of every agent. -/
theorem hardwiredProgramIsNeverMisused : Obligations.HardwiredProgramIsNeverMisused := by
  intro s h
  have hinv := hardwiredInv_dropMove s h
  rcases makeMove_hardwired (nextMove s) (dropMove s) hinv with ⟨s', hs', hp'⟩ | ⟨r, hr, n, rfl, hn, hw⟩
  · obtain ⟨hprog, hloops, hpc, hmode, hbus, -⟩ := hinv
    have hpar := makeMove_par _ _ _ hs'
    exact .inl ⟨s', hs', by rw [hpar]; exact hprog, by rw [hpar]; exact hloops,
      makeMove_pc_zero _ _ _ hs' hpc (congrArg List.length hprog) hloops, makeMove_mode_ne_three _ _ _ hs' hmode,
      makeMove_busConsistent _ _ _ hs' hbus, hp'⟩
  · exact .inr ⟨n, hr, hn, by simpa using hw⟩

end Sys2Proof.Machine

/-! ### Nibbles, BCD and the working values (00_scope.md R14 to R16, 44_modecontroller.md R211 to R214) -/

namespace Sys2Proof.Machine

theorem hiNibble_toNat (b : Byte) : (hiNibble b).toNat = b.toNat / 16 := by
  have hb := b.isLt
  simp only [hiNibble, BitVec.extractLsb'_toNat, Nat.shiftRight_eq_div_pow]
  omega

theorem loNibble_toNat (b : Byte) : (loNibble b).toNat = b.toNat % 16 := by
  simp [loNibble, BitVec.extractLsb'_toNat]

theorem isBcd_iff (b : Byte) : isBcd b = true ↔ (hiNibble b).toNat ≤ 9 ∧ (loNibble b).toNat ≤ 9 := by
  simp [isBcd]

/-- The number a BCD byte stands for (00_scope.md R15). -/
theorem bcd2dec_toNat (b : Byte) (h : isBcd b = true) :
    (bcd2dec b).toNat = (hiNibble b).toNat * 10 + (loNibble b).toNat := by
  obtain ⟨hhi, hlo⟩ := (isBcd_iff b).1 h
  rw [bcd2dec, if_pos h, BitVec.toNat_ofNat]
  omega

/-- The range of `bcd2dec`, whatever the byte (00_scope.md R15, 44_modecontroller.md R214). -/
theorem bcd2dec_le (b : Byte) : (bcd2dec b).toNat ≤ 165 := by
  by_cases h : isBcd b = true
  · obtain ⟨hhi, hlo⟩ := (isBcd_iff b).1 h
    rw [bcd2dec_toNat b h]
    omega
  · have hfree := (Config.bcd2decBeyond b).isLt
    rw [bcd2dec, if_neg h, BitVec.toNat_ofNat]
    omega

theorem validSixty_iff (b : Byte) : validSixty b = true ↔ isBcd b = true ∧ (bcd2dec b).toNat ≤ 59 := by
  simp only [validSixty, Bool.and_eq_true, decide_eq_true_eq]
  refine and_congr_right fun h => ?_
  obtain ⟨hhi, hlo⟩ := (isBcd_iff b).1 h
  rw [bcd2dec_toNat b h]
  omega

theorem validHours_iff (b : Byte) : validHours b = true ↔ isBcd b = true ∧ (bcd2dec b).toNat ≤ 23 := by
  simp only [validHours, Bool.and_eq_true, decide_eq_true_eq, and_assoc]
  refine and_congr_right fun h => ?_
  rw [bcd2dec_toNat b h]
  omega

/-- The BCD form of a number has its tens in the upper and its units in the lower nibble (00_scope.md R14). -/
theorem dec2bcd_nibbles (n : Byte) (hn : n.toNat ≤ 99) :
    (hiNibble (dec2bcd n)).toNat = n.toNat / 10 ∧ (loNibble (dec2bcd n)).toNat = n.toNat % 10 := by
  have hbyte : (dec2bcd n).toNat = n.toNat / 10 * 16 + n.toNat % 10 := by
    rw [dec2bcd, if_pos hn, BitVec.toNat_ofNat]
    omega
  rw [hiNibble_toNat, loNibble_toNat, hbyte]
  omega

theorem isBcd_dec2bcd (n : Byte) (hn : n.toNat ≤ 99) : isBcd (dec2bcd n) = true := by
  obtain ⟨hhi, hlo⟩ := dec2bcd_nibbles n hn
  rw [isBcd_iff, hhi, hlo]
  omega

theorem bcd2dec_dec2bcd (n : Byte) (hn : n.toNat ≤ 99) : bcd2dec (dec2bcd n) = n := by
  obtain ⟨hhi, hlo⟩ := dec2bcd_nibbles n hn
  apply BitVec.eq_of_toNat_eq
  rw [bcd2dec_toNat _ (isBcd_dec2bcd n hn), hhi, hlo]
  omega

/-- Settles O45: the two helpers are inverse on 0..99, the domain of `dec2bcd`. -/
theorem bcdRoundTrip : Obligations.BcdRoundTrip := by
  intro n
  have hval : (BitVec.ofNat 8 n.val).toNat = n.val := by
    rw [BitVec.toNat_ofNat]; omega
  have hn : (BitVec.ofNat 8 n.val).toNat ≤ 99 := by omega
  exact ⟨bcd2dec_dec2bcd _ hn, by simpa only [hval] using dec2bcd_nibbles _ hn⟩

/-- Settles O53: the nibbles of a BCD byte are the digits of its number. -/
theorem displayPathsAgreeOnValidBytes : Obligations.DisplayPathsAgreeOnValidBytes := by
  intro b h
  obtain ⟨hhi, hlo⟩ := (isBcd_iff b).1 h
  have hdec := bcd2dec_toNat b h
  constructor <;> apply BitVec.eq_of_toNat_eq <;> simp only [tensDigit, unitsDigit, BitVec.toNat_ofNat, hdec] <;> omega

/-- An increment that wraps above the bound stays within it (44_modecontroller.md R211). -/
theorem wrapInc_le (bound : Nat) (x : Byte) : (wrapInc bound x).toNat ≤ bound := by
  unfold wrapInc
  split_ifs with h
  · exact Nat.zero_le _
  · rw [BitVec.toNat_ofNat]
    exact (Nat.mod_le _ _).trans (by omega)

/-- The sum of an increment that does not wrap fits a byte as it is. -/
theorem wrapInc_add (bound : Nat) (x : Byte) : wrapInc bound x = if x.toNat + 1 > bound then 0#8 else x + 1#8 := by
  have hsum : BitVec.ofNat 8 (x.toNat + 1) = x + 1#8 := by
    apply BitVec.eq_of_toNat_eq
    simp
  rw [wrapInc, hsum]

/-- An increment on a byte: 0 from the bound upwards, one more below (44_modecontroller.md R211). -/
theorem wrapInc_eq (bound : Nat) (x : Byte) : wrapInc bound x = if bound ≤ x.toNat then 0#8 else x + 1#8 := by
  simp only [wrapInc_add, gt_iff_lt, Nat.lt_succ_iff]

/-- Settles O59: each increment is one micro-step, and `wrapInc` at its bound. -/
theorem incrementsWrapAboveTheBound : Obligations.IncrementsWrapAboveTheBound := by
  intro s rest
  rw [← wrapInc_eq 23, ← wrapInc_eq 59]
  exact ⟨rfl, rfl⟩

/-- Settles O60: the seed is one micro-step; the bounds are those of `bcd2dec`. -/
theorem seedTakesTheTimeLastRead : Obligations.SeedTakesTheTimeLastRead := by
  intro s rest
  refine ⟨goOn rest (seedWorking s), rfl, rfl, ?_, ?_, fun ⟨hhrs, hmin⟩ => ?_⟩
  · simpa using bcd2dec_le s.thrs
  · simpa using bcd2dec_le s.tmin
  · obtain ⟨hbcd, hle⟩ := (validHours_iff _).1 hhrs
    obtain ⟨hbcd', hle'⟩ := (validSixty_iff _).1 hmin
    simp only [WorkingInRange, goOn_fields, seedWorking_fields]
    exact ⟨⟨hle, hle'⟩, bcd2dec_toNat _ hbcd, bcd2dec_toNat _ hbcd'⟩

/-- Where a register action may write WH or WM, and what (10_state.md R52). -/
theorem performAction_working (a : Action) (s s' : State) (h : performAction a s = .ok s') :
    (s'.wh = s.wh ∧ s'.wm = s.wm) ∨ (s'.wh = bcd2dec s.thrs ∧ s'.wm = bcd2dec s.tmin) ∨
    (s'.wh = wrapInc 23 s.wh ∧ s'.wm = s.wm) ∨ (s'.wh = s.wh ∧ s'.wm = wrapInc 59 s.wm) := by
  cases a with
  | issue c =>
    obtain ⟨-, ⟨-, rfl⟩ | ⟨b, -, -, rfl⟩ | ⟨-, -, rfl⟩⟩ := performAction_issue c s s' h <;> simp
  | stop =>
    simp only [performAction, stopBus] at h
    split_ifs at h
    cases h; simp
  | setDig t v =>
    simp only [performAction] at h
    split at h <;> cases h
    simp
  | seed => cases h; exact .inr (.inl ⟨rfl, rfl⟩)
  | incWh => cases h; exact .inr (.inr (.inl ⟨rfl, rfl⟩))
  | incWm => cases h; exact .inr (.inr (.inr ⟨rfl, rfl⟩))
  | _ => cases h; simp

/-- A micro-step keeps the working values in range while the time last read is valid (44_modecontroller.md R214). -/
theorem runMicro_working (m : MicroStep) (rest : List MicroStep) (s s' : State) (h : runMicro m rest s = .next s')
    (hrange : WorkingInRange s) (hread : ReadTimeValid s) : WorkingInRange s' := by
  obtain ⟨hhrs, hmin⟩ := hread
  obtain ⟨-, hseed⟩ := (validHours_iff _).1 hhrs
  obtain ⟨-, hseed'⟩ := (validSixty_iff _).1 hmin
  obtain ⟨hwh, hwm⟩ := hrange
  rcases runMicro_next m rest s s' h with ⟨a, s1, -, ha, rfl⟩ | ⟨-, -, rfl⟩ | ⟨-, -, rfl⟩ | ⟨c, b, -, rfl⟩
  · simp only [WorkingInRange, goOn_fields]
    rcases performAction_working a s s1 ha with ⟨h1, h2⟩ | ⟨h1, h2⟩ | ⟨h1, h2⟩ | ⟨h1, h2⟩ <;> rw [h1, h2]
    · exact ⟨hwh, hwm⟩
    · exact ⟨hseed, hseed'⟩
    · exact ⟨wrapInc_le 23 _, hwm⟩
    · exact ⟨hwh, wrapInc_le 59 _⟩
  · simpa [WorkingInRange] using And.intro hwh hwm
  · exact ⟨hwh, hwm⟩
  · simpa [WorkingInRange] using And.intro hwh hwm

/-- So does every move. -/
theorem makeMove_working (m : Move) (s s' : State) (h : makeMove m s = .next s')
    (hrange : WorkingInRange s) (hread : ReadTimeValid s) : WorkingInRange s' := by
  cases m with
  | main =>
    rcases mainStep_next s s' h with ⟨-, rfl⟩ | ⟨-, level, w, -, -, rfl⟩ | ⟨m, rest, hm, -⟩
    · exact hrange
    · simpa [WorkingInRange, takeTick] using hrange
    · exact runMicro_working m rest s s' hm hrange hread
  | tick level => cases h; simpa [WorkingInRange, takeTick] using hrange
  | complete ans => cases h; simpa [WorkingInRange] using hrange
  | rtcTick => cases h; simpa [WorkingInRange] using hrange
  | rtcSet hours minutes seconds => cases h; simpa [WorkingInRange, rtcSetTime] using hrange
  | noResp => cases h; exact hrange
  | reset sel => cases h; exact ⟨Nat.zero_le _, Nat.zero_le _⟩

/-- Settles O16: a seed is in range for a valid time, an increment by its wrap, and nothing else writes WH or WM but RESET. -/
theorem workingValuesStayInRange : Obligations.WorkingValuesStayInRange := by
  intro s s' hrange hread h
  exact makeMove_working _ _ _ h (by simpa [WorkingInRange] using hrange) (by simpa [ReadTimeValid] using hread)

end Sys2Proof.Machine

/-! ### The device's own tick (20_memory.md R70) -/

namespace Sys2Proof.Machine

/-- What the three time registers and every other read as after the time is set. -/
theorem rtcRead_rtcSetTime (h m sec x : Byte) (s : State) (hs : s.rtcMem.wf = true) :
    rtcRead (rtcSetTime h m sec s) x =
      if x = 0x02#8 then dec2bcd h else if x = 0x01#8 then dec2bcd m else if x = 0x00#8 then dec2bcd sec
      else rtcRead s x := by
  have hsec := rtcWrite_wf Config.regSec (dec2bcd sec) s hs
  have hmin := rtcWrite_wf Config.regMin (dec2bcd m) _ hsec
  rw [rtcSetTime, rtcRead_rtcWrite _ _ _ _ hmin, rtcRead_rtcWrite _ _ _ _ hsec, rtcRead_rtcWrite _ _ _ _ hs]
  rfl

/-- Setting the time changes the device's registers only. -/
theorem rtcSetTime_frame (h m sec : Byte) (s : State) :
    rtcSetTime h m sec s = { s with rtcMem := (rtcSetTime h m sec s).rtcMem } := rfl

theorem rtcTick_frame (s : State) : rtcTick s = { s with rtcMem := (rtcTick s).rtcMem } := by
  unfold rtcTick
  split_ifs
  · exact rtcSetTime_frame _ _ _ s
  · rfl

theorem rtcTimeValid_iff (s : State) :
    rtcTimeValid s = true ↔
      validSixty (rtcRead s 0x00#8) = true ∧ validSixty (rtcRead s 0x01#8) = true ∧
      validHours (rtcRead s 0x02#8) = true := by
  simp [rtcTimeValid, Config.regSec, Config.regMin, Config.regHrs, and_assoc]

/-- One second more is a time of day again, the next one modulo a day. -/
theorem nextSecond_spec (h m s : Nat) (hh : h ≤ 23) (hm : m ≤ 59) (hs : s ≤ 59) :
    (nextSecond h m s).1 ≤ 23 ∧ (nextSecond h m s).2.1 ≤ 59 ∧ (nextSecond h m s).2.2 ≤ 59 ∧
    (nextSecond h m s).1 * 3600 + (nextSecond h m s).2.1 * 60 + (nextSecond h m s).2.2 =
      (h * 3600 + m * 60 + s + 1) % 86400 := by
  unfold nextSecond
  split_ifs <;> refine ⟨?_, ?_, ?_, ?_⟩ <;> dsimp only <;> omega

/-- The BCD byte of a number at most 99 stands for that number. -/
theorem bcd_of_nat (n : Nat) (hn : n ≤ 99) :
    isBcd (dec2bcd (BitVec.ofNat 8 n)) = true ∧ (bcd2dec (dec2bcd (BitVec.ofNat 8 n))).toNat = n := by
  have hval : (BitVec.ofNat 8 n).toNat = n := by
    rw [BitVec.toNat_ofNat]; omega
  have hle : (BitVec.ofNat 8 n).toNat ≤ 99 := by omega
  exact ⟨isBcd_dec2bcd _ hle, by rw [bcd2dec_dec2bcd _ hle, hval]⟩

/-- Seconds since midnight of the device's time. -/
def secondsOfDay (s : State) : Nat :=
  (bcd2dec (rtcRead s 0x02#8)).toNat * 3600 + (bcd2dec (rtcRead s 0x01#8)).toNat * 60 +
    (bcd2dec (rtcRead s 0x00#8)).toNat

/-- From a valid time the device's tick makes the next second of the day, valid again (20_memory.md R70). -/
theorem rtcTick_valid (s : State) (hs : s.rtcMem.wf = true) (hv : rtcTimeValid s = true) :
    rtcTimeValid (rtcTick s) = true ∧ secondsOfDay (rtcTick s) = (secondsOfDay s + 1) % 86400 := by
  obtain ⟨hsec, hmin, hhrs⟩ := (rtcTimeValid_iff s).1 hv
  obtain ⟨hh, hm, hsc, hsum⟩ := nextSecond_spec _ _ _ ((validHours_iff _).1 hhrs).2 ((validSixty_iff _).1 hmin).2
    ((validSixty_iff _).1 hsec).2
  obtain ⟨bcdh, deh⟩ := bcd_of_nat _ (hh.trans (by decide))
  obtain ⟨bcdm, dem⟩ := bcd_of_nat _ (hm.trans (by decide))
  obtain ⟨bcds, des⟩ := bcd_of_nat _ (hsc.trans (by decide))
  have htick : rtcTick s = rtcSetTime _ _ _ s := if_pos hv
  rw [rtcTimeValid_iff, validHours_iff, validSixty_iff, validSixty_iff, secondsOfDay, secondsOfDay, ← hsum, htick]
  simp only [rtcRead_rtcSetTime _ _ _ _ _ hs]
  exact ⟨⟨⟨bcds, des.trans_le hsc⟩, ⟨bcdm, dem.trans_le hm⟩, bcdh, deh.trans_le hh⟩,
    congrArg₂ (· + ·) (congrArg₂ (· + ·) (congrArg (· * 3600) deh) (congrArg (· * 60) dem)) des⟩

/-- The device's tick writes no register but 0, 1 and 2 (log 25). -/
theorem rtcRead_rtcTick_other (s : State) (x : Byte) (hs : s.rtcMem.wf = true) (h0 : x ≠ 0x00#8) (h1 : x ≠ 0x01#8)
    (h2 : x ≠ 0x02#8) : rtcRead (rtcTick s) x = rtcRead s x := by
  unfold rtcTick
  split_ifs
  · rw [rtcRead_rtcSetTime _ _ _ _ _ hs, if_neg h2, if_neg h1, if_neg h0]
  · rfl

/-- Settles O44: the carry of `nextSecond` is addition modulo a day, and BCD keeps the three numbers. -/
theorem deviceTickIsTheNextSecond : Obligations.DeviceTickIsTheNextSecond := by
  intro s hs
  refine ⟨rtcTick s, rfl, rtcTick_frame s, fun x => rtcRead_rtcTick_other s x hs, fun hv => ?_, rtcTick_valid s hs⟩
  have hinvalid : rtcTimeValid s = false := hv
  simp [rtcTick, hinvalid]

end Sys2Proof.Machine

/-! ### The debouncer beside the main context and the bus (42_inputdebouncer.md, 60_exceptions.md R235, R236) -/

namespace Sys2Proof.Machine

/-- The state with the debouncer's three registers at these values. -/
def withDebouncer (hold : BitVec 7) (sp lp : Bool) (s : State) : State := { s with hold := hold, sp := sp, lp := lp }

/-- What a sample leaves in the three registers it writes depends on these registers only. -/
theorem sampleButton_withDebouncer (level : Level) (s : State) :
    ∃ hold sp lp, ∀ t : State, t.hold = s.hold → t.sp = s.sp → t.lp = s.lp →
      sampleButton level t = withDebouncer hold sp lp t := by
  cases level with
  | pressed =>
    refine ⟨if s.hold.toNat < 100 then s.hold + 1#7 else s.hold, s.sp, s.lp, fun t hh hs hl => ?_⟩
    rw [sampleButton_pressed, ← hh, ← hs, ← hl]
    split_ifs <;> rfl
  | released =>
    refine ⟨0#7, s.sp || (decide (2 ≤ s.hold.toNat) && decide (s.hold.toNat ≤ 19)), s.lp || decide (30 < s.hold.toNat),
      fun t hh hs hl => ?_⟩
    rw [sampleButton_released, hh, hs, hl, withDebouncer]

/-- The device does not look at the debouncer. -/
theorem deviceByte_withDebouncer (b : Byte) (hold : BitVec 7) (sp lp : Bool) (s : State) :
    deviceByte b (withDebouncer hold sp lp s) = withDebouncer hold sp lp (deviceByte b s) := by
  unfold deviceByte withDebouncer
  dsimp only
  split
  · split_ifs <;> rfl
  all_goals rfl

/-- Nor does the bus engine. -/
theorem completeBusOp_withDebouncer (ans : BusAnswer) (hold : BitVec 7) (sp lp : Bool) (s : State) :
    completeBusOp ans (withDebouncer hold sp lp s) = withDebouncer hold sp lp (completeBusOp ans s) := by
  unfold completeBusOp
  rw [show (withDebouncer hold sp lp s).responding = s.responding from rfl,
    show (withDebouncer hold sp lp s).busop = s.busop from rfl]
  split_ifs
  · cases s.busop with
    | none => rfl
    | start => cases ans <;> rfl
    | write b =>
      cases ans with
      | device ack d => simp only [completeWrite, deviceByte_withDebouncer]; rfl
      | undriven ack d => rfl
    | read => cases ans <;> rfl
  · rfl

/-- Settles O21: a sample and a completion write different registers, and neither reads what the other writes. -/
theorem tickAndCompletionCommute : Obligations.TickAndCompletionCommute := by
  intro level ans s
  obtain ⟨hold, sp, lp, hsample⟩ := sampleButton_withDebouncer level s
  refine congrArg Host.Outcome.next ?_
  calc completeBusOp ans (sampleButton level s)
      = completeBusOp ans (withDebouncer hold sp lp s) := by rw [hsample s rfl rfl rfl]
    _ = withDebouncer hold sp lp (completeBusOp ans s) := completeBusOp_withDebouncer ans hold sp lp s
    _ = sampleButton level (completeBusOp ans s) := (hsample _ (by simp) (by simp) (by simp)).symm

/-- Settles O22: a tick is the sample, and a TICK of PROGRAM is the sample and the end of an operation (log 15). -/
theorem tickSamplesTheButton : Obligations.TickSamplesTheButton := by
  refine ⟨by decide, by decide, fun s => ⟨?_, ?_, fun level => ⟨sampleButton level s, rfl, rfl⟩⟩⟩
  · have hcount : BitVec.ofNat 7 (s.hold.toNat + 1) = s.hold + 1#7 := by
      apply BitVec.eq_of_toNat_eq
      simp
    rw [hcount]
    exact congrArg Host.Outcome.next (sampleButton_pressed s)
  · exact congrArg Host.Outcome.next (sampleButton_released s)

/-- Settles O25: each clear is one micro-step. -/
theorem clearsClearTheFlag : Obligations.ClearsClearTheFlag :=
  ⟨by decide, by decide, fun s => ⟨enter_act .clrSp [] s _ rfl, enter_act .clrLp [] s _ rfl⟩⟩

end Sys2Proof.Machine

/-! ### Reset (10_state.md R51, 70_reset_and_hazards.md R261) -/

namespace Sys2Proof.Machine

/-- A line of a bijectively wired tube carries the bit wired to it (10_state.md R46). -/
theorem lineImage_get (m : Quad (Fin 4)) (v : Nibble) (h : tubeWf m = true) (k : Fin 4) :
    (lineImage m v).get (m.get k) = v.getLsbD k.val := by
  rw [← driveTube_eq_lineImage m v ⟨false, false, false, false⟩ h]
  exact driveTube_get m v _ h k

/-- Settles O11: RESET writes the table's values; each reset line is the image of 0xA under its tube's wiring. -/
theorem resetTakesTheTable : Obligations.ResetTakesTheTable := by
  intro sel s
  refine ⟨resetCore sel s, rfl, rfl, rfl, rfl, rfl, rfl, rfl, rfl, rfl, rfl, rfl, rfl, rfl, rfl, rfl, rfl, rfl, rfl, rfl, rfl,
    rfl, rfl, rfl, rfl, fun hwf tube k => ?_⟩
  simp only [resetCore, Quad.get_tabulate]
  exact lineImage_get _ _ (s.par.wf_tube hwf tube) k

/-- A permutation of the line numbers is a legal wiring (43_displaydriver.md R183). -/
theorem tubeWf_of_perm (e : Equiv.Perm (Fin 4)) : tubeWf (Quad.tabulate fun k => e k) = true := by
  simp [tubeWf, Quad.tabulate]

/-- The two address bytes of the real block differ, by a gap that is not 0 modulo 256 (00_scope.md R6). -/
theorem slaR_ne_slaW : Config.slaR ≠ Config.slaW := by
  intro h
  have hgap : BitVec.ofNat 8 (Config.slaGap.val + 1) = 0#8 := by
    simpa [Config.slaR] using h
  have hlt := Config.slaGap.isLt
  have hval := congrArg BitVec.toNat hgap
  simp only [BitVec.toNat_ofNat] at hval
  omega

/-- The real block is legally wired, whatever its OPEN parameters are. -/
theorem platform_wf : Params.platform.wf = true := by
  simp only [Params.wf, Params.platform, Quad.tabulate, Bool.and_eq_true, bne_iff_ne]
  exact ⟨⟨⟨⟨slaR_ne_slaW, tubeWf_of_perm _⟩, tubeWf_of_perm _⟩, tubeWf_of_perm _⟩, tubeWf_of_perm _⟩

/-- Settles O12: under a legal wiring a REFRESH drives the image of the slots, which is what the reset lines are. -/
theorem resetLinesAgreeWithSlots : Obligations.ResetLinesAgreeWithSlots := by
  refine ⟨platform_wf, ?_⟩
  rw [driveLines_eq State.reset platform_wf]
  rfl

/-- Settles O13: at reset nothing is pending, nothing is in flight and the memory lists nothing. -/
theorem resetMeetsTheInvariants : Obligations.ResetMeetsTheInvariants :=
  ⟨⟨reset_memory_wf, by decide, by decide, rfl⟩, rfl, rfl, rfl, by decide, rfl, rfl, rfl⟩

/-- Settles O48: under a legal wiring REFRESH drives the image of the slots, whatever the lines were. -/
theorem refreshIsAFunctionOfTheSlots : Obligations.RefreshIsAFunctionOfTheSlots := by
  intro s s' hwf hpar hdig
  refine ⟨?_, ?_⟩
  · rw [driveLines_eq s hwf, driveLines_eq s' (by rw [hpar]; exact hwf), hpar, hdig]
  · rw [driveLines_eq (driveLines s) (by simpa using hwf), driveLines_eq s hwf]

end Sys2Proof.Machine

/-! ### A press between the test and the clear (20_memory.md R73 (b)) -/

namespace Sys2Proof.Machine

/-- A short press sets SP and nothing else: with SP set it leaves the state as it is. -/
theorem press_short_of_sp (s : State) (d : Nat) (h0 : s.hold = 0#7) (hsp : s.sp = true) (hd : d ≤ 19) :
    runMoves (List.replicate d (Move.tick .pressed) ++ [Move.tick .released]) s = .next s := by
  have hshort : (s.sp || (decide (2 ≤ d) && decide (d ≤ 19))) = s.sp := by rw [hsp, Bool.true_or]
  have hlong : (s.lp || decide (30 < d)) = s.lp := by rw [decide_eq_false (by omega), Bool.or_false]
  rw [pressOfDurationIsClassified s d h0, hshort, hlong]

/-- A long press sets LP and nothing else. -/
theorem press_long_of_lp (s : State) (d : Nat) (h0 : s.hold = 0#7) (hlp : s.lp = true) (hd : 30 < d) :
    runMoves (List.replicate d (Move.tick .pressed) ++ [Move.tick .released]) s = .next s := by
  have hshort : (s.sp || (decide (2 ≤ d) && decide (d ≤ 19))) = s.sp := by
    rw [decide_eq_false (by omega : ¬ d ≤ 19), Bool.and_false, Bool.or_false]
  have hlong : (s.lp || decide (30 < d)) = s.lp := by rw [hlp, Bool.true_or]
  rw [pressOfDurationIsClassified s d h0, hshort, hlong]

/-- The test of a set flag and the conditional open the block (44_modecontroller.md R204). -/
theorem runMoves_test_set (a : Action) (b : Block) (rest : List MicroStep) (s s1 : State)
    (hc : s.cont = .act a :: .ifSet .latchT b :: rest) (ha : performAction a s = .ok s1) (hl : s1.latch = true) :
    runMoves [.main, .main] s = .next (goOn (blockSteps b ++ rest) s1) := by
  rw [runMoves_cons_next _ _ _ _ (makeMove_main_act s s1 a _ hc ha), runMoves_ifSet]
  simp [condHolds, hl]

/-- A press that leaves the state as it is can stand between the conditional and what follows. -/
theorem runMoves_press_between (press : List Move) (s s2 u : State) (h2 : runMoves [.main, .main] s = .next s2)
    (hp : runMoves press s2 = .next s2) (hu : makeMove .main s2 = .next u) :
    runMoves ([Move.main, .main] ++ (press ++ [Move.main])) s = .next u ∧ runMoves [.main, .main, .main] s = .next u := by
  have hlast : runMoves [.main] s2 = .next u := by rw [runMoves_cons_next _ _ _ _ hu, runMoves_nil]
  constructor
  · rw [runMoves_append _ _ _ _ h2, runMoves_append _ _ _ _ hp, hlast]
  · exact (runMoves_append [.main, .main] [.main] s s2 h2).trans hlast

/-- Each ShortPress block begins with the clear of SP and goes on. -/
theorem blockSteps_short (b : Block) (h : b = .clockShort ∨ b = .hoursShort ∨ b = .minutesShort) :
    ∃ m more, blockSteps b = .act .clrSp :: m :: more := by
  rcases h with rfl | rfl | rfl <;> exact ⟨_, _, rfl⟩

/-- Each LongPress block begins with the clear of LP and goes on. -/
theorem blockSteps_long (b : Block) (h : b = .clockLong ∨ b = .hoursLong ∨ b = .minutesLong) :
    ∃ m more, blockSteps b = .act .clrLp :: m :: more := by
  rcases h with rfl | rfl | rfl <;> exact ⟨_, _, rfl⟩

/-- A short press inside a body, with SP set, is lost. -/
theorem press_lost_short (s : State) (d : Nat) (b : Block) (rest : List MicroStep) (h0 : s.hold = 0#7)
    (hc : s.cont = .act .tstSp :: .ifSet .latchT b :: rest) (hsp : s.sp = true) (hd : d ≤ 19)
    (hb : b = .clockShort ∨ b = .hoursShort ∨ b = .minutesShort) :
    ∃ u, runMoves ([Move.main, .main] ++ List.replicate d (Move.tick .pressed) ++ [Move.tick .released, .main]) s = .next u ∧
      u = { s with latch := true, sp := false, cont := (blockSteps b).tail ++ rest } ∧
      runMoves [.main, .main, .main] s = .next u := by
  obtain ⟨m, more, hblock⟩ := blockSteps_short b hb
  have h2 := runMoves_test_set .tstSp b rest s (testShort s) hc rfl (by simpa using hsp)
  have hp := press_short_of_sp (goOn (blockSteps b ++ rest) (testShort s)) d (by simpa using h0) (by simpa using hsp) hd
  have hu := makeMove_main_act (goOn (blockSteps b ++ rest) (testShort s)) _ .clrSp (m :: more ++ rest)
    (by simp [hblock]) rfl
  obtain ⟨hwith, hwithout⟩ := runMoves_press_between _ s _ _ h2 hp hu
  refine ⟨_, by simpa using hwith, ?_, hwithout⟩
  simp [hblock, goOn, clearShort, testShort, hsp]

/-- A long press inside a body, with LP set, is lost. -/
theorem press_lost_long (s : State) (d : Nat) (b : Block) (rest : List MicroStep) (h0 : s.hold = 0#7)
    (hc : s.cont = .act .tstLp :: .ifSet .latchT b :: rest) (hlp : s.lp = true) (hd : 30 < d)
    (hb : b = .clockLong ∨ b = .hoursLong ∨ b = .minutesLong) :
    ∃ u, runMoves ([Move.main, .main] ++ List.replicate d (Move.tick .pressed) ++ [Move.tick .released, .main]) s = .next u ∧
      u = { s with latch := true, lp := false, cont := (blockSteps b).tail ++ rest } ∧
      runMoves [.main, .main, .main] s = .next u := by
  obtain ⟨m, more, hblock⟩ := blockSteps_long b hb
  have h2 := runMoves_test_set .tstLp b rest s (testLong s) hc rfl (by simpa using hlp)
  have hp := press_long_of_lp (goOn (blockSteps b ++ rest) (testLong s)) d (by simpa using h0) (by simpa using hlp) hd
  have hu := makeMove_main_act (goOn (blockSteps b ++ rest) (testLong s)) _ .clrLp (m :: more ++ rest)
    (by simp [hblock]) rfl
  obtain ⟨hwith, hwithout⟩ := runMoves_press_between _ s _ _ h2 hp hu
  refine ⟨_, by simpa using hwith, ?_, hwithout⟩
  simp [hblock, goOn, clearLong, testLong, hlp]

/-- Where SP ends up does not depend on the end of an operation. -/
theorem clearShort_advancePc (s : State) : clearShort (advancePc s) = advancePc (clearShort s) := by
  unfold advancePc
  rw [show (clearShort s).pc = s.pc from rfl, show (clearShort s).par = s.par from rfl]
  split_ifs <;> rfl

/-- Settles O26: the press only sets a flag that is set already and cleared next. -/
theorem pressBetweenTestAndClearIsLost : Obligations.PressBetweenTestAndClearIsLost := by
  intro s d b rest h0
  refine ⟨fun hc hsp _ hd hb => press_lost_short s d b rest h0 hc hsp hd hb,
    fun hc hlp hd hb => press_lost_long s d b rest h0 hc hlp hd hb, fun hd2 hd => ?_⟩
  obtain ⟨-, -, htest⟩ := testsCopyTheFlagToTheLatch
  obtain ⟨-, -, hclear⟩ := clearsClearTheFlag
  have hpress := pressOfDurationIsClassified (advancePc (testShort s)) d (by simpa using h0)
  have hlong : ¬ 30 < d := by omega
  refine ⟨_, _, (htest s).1, hpress, by simp [hd2, hd], ?_⟩
  rw [(hclear _).1]
  have hlost : ({ advancePc (testShort s) with sp := false } : State) = advancePc { s with latch := s.sp, sp := false } :=
    clearShort_advancePc (testShort s)
  rw [← hlost]
  simp [hlong]

end Sys2Proof.Machine

/-! ### The bus primitives and their awaits (40_timebus.md R122 to R131) -/

namespace Sys2Proof.Machine

/-- An await that is not enabled: the main context's move leaves the whole state as it is (40_timebus.md R123). -/
theorem makeMove_main_blocked (s : State) (rest : List MicroStep) (h : s.cont = .await :: rest) (hd : s.opDone = false) :
    makeMove .main s = .next s := by
  rw [makeMove_main_cons s _ _ h]
  simp [runMicro, hd]

/-- Settles O32: an await looks at DONE alone. -/
theorem awaitWaitsForDone : Obligations.AwaitWaitsForDone :=
  fun s rest hc => ⟨makeMove_main_blocked s rest hc, makeMove_main_await s rest hc⟩

/-- After a completed operation, its await about to be taken, only the event is left of it. -/
theorem completed_eq (op : BusOp) (e : BusEvent) (rest : List MicroStep) (t : State) (hb : t.busop = .none) :
    { finishBusOp (emit e (goOn (.await :: rest) (handOver op t))) with opDone := false } =
      { t with trace := t.trace ++ [e], opDone := false, cont := .await :: rest } := by
  simp only [finishBusOp, emit, goOn, handOver, hb]

/-- From the await of an operation just handed over: once the engine has answered with event `e`, leaving the device and
the registers as in `t`, the await is taken (40_timebus.md R122 to R124). -/
theorem await_run (op : BusOp) (e : BusEvent) (s t : State) (ans : BusAnswer) (rest : List MicroStep) (more : List Move)
    (hb : t.busop = .none)
    (hdone : completeBusOp ans (goOn (.await :: rest) (handOver op s)) =
      finishBusOp (emit e (goOn (.await :: rest) (handOver op t)))) :
    runMoves (.complete ans :: .main :: more) (goOn (.await :: rest) (handOver op s)) =
      runMoves more (goOn rest { t with trace := t.trace ++ [e], opDone := false }) := by
  have hopDone : (completeBusOp ans (goOn (.await :: rest) (handOver op s))).opDone = true := by rw [hdone]; rfl
  rw [runMoves_complete_await _ ans rest more rfl hopDone, hdone, completed_eq op e rest t hb,
    goOn_cont rest { t with trace := t.trace ++ [e], opDone := false }]

/-- A primitive made of an issue and its await: the issue is made, its await blocks, and the completion ends it. -/
theorem issue_await_run (c : BusCmd) (op : BusOp) (e : BusEvent) (s t : State) (ans : BusAnswer)
    (hissue : performAction (.issue c) s = .ok (handOver op s)) (hb : t.busop = .none)
    (hdone : completeBusOp ans (goOn [.await] (handOver op s)) = finishBusOp (emit e (goOn [.await] (handOver op t)))) :
    enter [.act (.issue c), .await] s = .next (goOn [.await] (handOver op s)) ∧
    makeMove .main (goOn [.await] (handOver op s)) = .next (goOn [.await] (handOver op s)) ∧
    runMoves [.complete ans, .main] (goOn [.await] (handOver op s)) =
      .next (advancePc { t with trace := t.trace ++ [e], opDone := false }) :=
  ⟨enter_act _ _ s _ hissue, makeMove_main_blocked _ [] (by simp) (by simp), await_run op e s t ans [] [] hb hdone⟩

/-- Settles O27: an issue and its await around the engine's completion of a START. -/
theorem startCompletes : Obligations.StartCompletes := by
  refine ⟨by decide, fun s ack d hb hr => ?_⟩
  obtain ⟨hexec, hblock, hrun⟩ := issue_await_run .start .start .start s { s with phase := .active, rtcSel := .none }
    (.device ack d) (if_pos hb) hb (if_pos hr)
  exact ⟨_, hexec, rfl, hblock, hrun⟩

/-- Settles O28: STOP is one register action (D22). -/
theorem stopCompletes : Obligations.StopCompletes :=
  ⟨by decide, fun s hactive => enter_act .stop [] s _ (if_pos hactive)⟩

/-- The device does not look at what is pending or in flight. -/
theorem deviceByte_handOver (b : Byte) (op : BusOp) (s : State) :
    deviceByte b (goOn [.await] (handOver op s)) = goOn [.await] (handOver op (deviceByte b s)) := by
  unfold deviceByte handOver goOn
  dsimp only
  split
  · split_ifs <;> rfl
  all_goals rfl

/-- Settles O29: an issue and its await around the engine's completion of a sent byte, which the device follows. -/
theorem wrbyteCompletes : Obligations.WrbyteCompletes := by
  refine ⟨fun a => ?_, fun s a ack d hb hactive hr => ?_⟩
  · rw [← decode_encode (.wrbyte a) rfl, encode, packWord_eq_ofNat]
    simp
  · have hdone : completeBusOp (.device ack d) (goOn [.await] (handOver (.write a) s)) =
        finishBusOp (emit (.wbyte a (if deviceAccepts a s then 0#1 else ack))
          (goOn [.await] (handOver (.write a) (deviceByte a s)))) := by
      rw [← deviceByte_handOver]
      exact if_pos hr
    obtain ⟨hexec, hblock, hrun⟩ := issue_await_run (.write (.lit a)) _ _ s (deviceByte a s) (.device ack d)
      ((if_pos hb).trans (if_pos hactive)) (by simpa using hb) hdone
    exact ⟨_, hexec, rfl, hblock, hrun.trans (by simp)⟩

/-- The device drives its byte when it is addressed for reading, and nothing else (20_memory.md R67). -/
theorem deviceDrives_cases (s : State) (d : Byte) :
    (s.rtcSel = .addressedR → deviceDrives s d = rtcRead s s.rtcPtr) ∧ (s.rtcSel ≠ .addressedR → deviceDrives s d = d) := by
  cases h : s.rtcSel <;> simp [deviceDrives, h]

/-- Settles O30: an issue and its await around the engine's completion of a received byte. -/
theorem rdbyteCompletes : Obligations.RdbyteCompletes := by
  refine ⟨by decide, fun s ack d hb hactive hr => ?_⟩
  obtain ⟨hexec, hblock, hrun⟩ := issue_await_run .read .read (.rbyte (deviceDrives s d) 1#1) s
    { s with rx := deviceDrives s d } (.device ack d) ((if_pos hb).trans (if_pos hactive)) hb (if_pos hr)
  obtain ⟨haddressed, hnot⟩ := deviceDrives_cases s d
  exact ⟨_, hexec, rfl, hblock, deviceDrives s d, haddressed, hnot, hrun⟩

/-- An expansion that begins with a refused action is refused. -/
theorem enter_refused (a : Action) (rest : List MicroStep) (s : State) (r : Refusal) (h : performAction a s = .error r) :
    enter (.act a :: rest) s = .refused r := by
  simp [enter, runMicro, h]

/-- Settles O31: each of the three begins with an action that needs an active phase. -/
theorem busPrimitivesAreRefusedWhileIdle : Obligations.BusPrimitivesAreRefusedWhileIdle := by
  intro s hidle
  have hphase : s.phase ≠ .active := by simp [hidle]
  exact ⟨enter_refused .stop [] s _ (if_neg hphase), fun hb =>
    ⟨fun a => enter_refused _ _ s _ ((if_pos hb).trans (if_neg hphase)),
      enter_refused _ _ s _ ((if_pos hb).trans (if_neg hphase))⟩⟩

/-- The engine writes RX, the bus state and the device only (10_state.md R52). -/
theorem completeBusOp_frame (ans : BusAnswer) (s : State) :
    completeBusOp ans s = { s with
      rx := (completeBusOp ans s).rx, busop := (completeBusOp ans s).busop, opDone := (completeBusOp ans s).opDone
      phase := (completeBusOp ans s).phase, trace := (completeBusOp ans s).trace
      rtcMem := (completeBusOp ans s).rtcMem, rtcPtr := (completeBusOp ans s).rtcPtr
      rtcSel := (completeBusOp ans s).rtcSel } := by
  have hf := completeBusOp_fields ans s
  generalize completeBusOp ans s = t at hf ⊢
  obtain ⟨⟩ := t
  simp_all

/-- Settles O33: one case for each operation in flight, either way it is answered. -/
theorem completionIsTheEnginesOneStep : Obligations.CompletionIsTheEnginesOneStep := by
  intro s ans hr
  refine ⟨completeBusOp ans s, rfl, completeBusOp_frame ans s, ?_⟩
  simp only [completeBusOp, if_pos hr]
  cases hop : s.busop with
  | none => simp
  | start => cases ans <;> simp [completeStart]
  | write b => cases ans <;> simp [completeWrite]
  | read => cases ans <;> simp [completeRead, receive, Config.rdAck]

/-- Settles O34: the acknowledge stands in the event of a sent byte and nowhere else. -/
theorem acknowledgeHasNoEffect : Obligations.AcknowledgeHasNoEffect := by
  intro s ack ack' d
  unfold completeBusOp
  split_ifs
  · cases s.busop <;> exact ⟨rfl, rfl⟩
  · exact ⟨rfl, rfl⟩

end Sys2Proof.Machine

/-! ### Small operations: the backlight, and what is refused (43_displaydriver.md R184 to R189, 44_modecontroller.md R200) -/

namespace Sys2Proof.Machine

/-- Settles O52: each of the three is one register action. -/
theorem backlightOperationsComplete : Obligations.BacklightOperationsComplete :=
  ⟨by decide, by decide, by decide, fun s =>
    ⟨enter_act .blOn [] s _ rfl, enter_act .blOff [] s _ rfl, enter_act .blToggle [] s _ rfl⟩⟩

/-- Settles O58: MODE 3 selects no body. -/
theorem modestepInModeThreeIsRefused : Obligations.ModestepInModeThreeIsRefused := by
  intro s h
  simp [exec, execModestep, h]

/-- MODESTEP enters the body its MODE selects (44_modecontroller.md R200). -/
theorem exec_modestep (s : State) (h : s.mode ≠ 3#2) : exec .modestep s = enter (modeBody s) s := by
  rcases exec_cases .modestep s with ⟨level, hi, -⟩ | ⟨-, hm, -⟩ | ⟨-, -, he⟩
  · cases hi
  · exact absurd hm h
  · exact he

/-- The tens digit of an operand above 99 is refused for it (30_encoding.md R94 (c), 44_modecontroller.md R214). -/
theorem performAction_tens_refused (t : Fin 4) (n : NumArg) (s : State) (h : 99 < (numArg n s).toNat) :
    performAction (.setDig t (.tens n)) s = .error (.displayOperand (numArg n s)) := by
  have hno : ¬ (numArg n s).toNat ≤ 99 := by omega
  simp [performAction, digArg, displayDigit, hno]

/-- Settles O51: a display begins with its tens digit, which a value above 99 has not. -/
theorem displayAbove99IsRefused : Obligations.DisplayAbove99IsRefused := by
  intro s
  refine ⟨fun n hn => ?_, fun hm hw => ?_, fun hm hw => ?_⟩
  · have hx : 99 < (n.setWidth 8).toNat := by rwa [BitVec.toNat_setWidth_of_le (by decide)]
    exact ⟨enter_refused _ _ s _ (performAction_tens_refused 0 (.lit (n.setWidth 8)) s hx),
      enter_refused _ _ s _ (performAction_tens_refused 2 (.lit (n.setWidth 8)) s hx)⟩
  · rw [exec_modestep s (by simp [hm]), modeBody, hm]
    exact enter_refused _ _ s _ (performAction_tens_refused 0 .wh s hw)
  · rw [exec_modestep s (by simp [hm]), modeBody, hm]
    exact enter_refused _ _ s _ (performAction_tens_refused 2 .wm s hw)

end Sys2Proof.Machine

/-! ### The hang and the progress of a blocked main context (40_timebus.md R125, 60_exceptions.md R246) -/

namespace Sys2Proof.Machine

/-- The two states differ at most in the debouncer, the device's registers and whether the bus responds. -/
def SameButEnvironment (s u : State) : Prop :=
  u = { s with hold := u.hold, sp := u.sp, lp := u.lp, rtcMem := u.rtcMem, responding := u.responding }

theorem SameButEnvironment.trans {s t u : State} (h : SameButEnvironment s t) (h' : SameButEnvironment t u) :
    SameButEnvironment s u := by
  unfold SameButEnvironment at *
  rw [h'.trans (by rw [h])]

/-- Whether the main context is blocked is no matter of the environment. -/
theorem SameButEnvironment.cont_opDone {s u : State} (h : SameButEnvironment s u) :
    u.cont = s.cont ∧ u.opDone = s.opDone ∧ u.busop = s.busop := by
  rw [h]; exact ⟨rfl, rfl, rfl⟩

/-- A main context at an await with DONE 0. -/
theorem mainBlocked_iff (s : State) :
    mainBlocked s = true ↔ (∃ rest, s.cont = .await :: rest) ∧ s.opDone = false := by
  cases hc : s.cont <;> simp [mainBlocked, hc]

/-- While the main context is blocked, a move that is no effective completion and no reset is the environment's own; and
one that stopped responding does not start again. -/
theorem makeMove_blocked (m : Move) (s : State) (h : mainBlocked s = true) (hreset : isReset m = false)
    (hno : isCompletion m = true → s.responding = false) :
    ∃ t, makeMove m s = .next t ∧ SameButEnvironment s t ∧ (s.responding = false → t.responding = false) := by
  obtain ⟨⟨rest, hc⟩, hd⟩ := (mainBlocked_iff s).1 h
  cases m with
  | main => exact ⟨s, makeMove_main_blocked s rest hc hd, rfl, id⟩
  | tick level =>
    refine ⟨_, rfl, ?_, by simp [takeTick]⟩
    rw [SameButEnvironment, takeTick, sampleButton_frame]
  | complete ans =>
    refine ⟨s, ?_, rfl, id⟩
    rw [makeMove, completeBusOp_idle ans s fun hr => by simp [hno rfl] at hr]
  | rtcTick =>
    refine ⟨_, rfl, ?_, by simp⟩
    rw [SameButEnvironment, rtcTick_frame]
  | rtcSet hours minutes seconds => exact ⟨_, rfl, rfl, by simp [rtcSetTime]⟩
  | noResp => exact ⟨_, rfl, rfl, fun _ => rfl⟩
  | reset sel => cases hreset

/-- Settles O35: by induction on the moves; each is the environment's own and leaves the main context blocked. -/
theorem blockedForEverWithoutCompletion : Obligations.BlockedForEverWithoutCompletion := by
  intro ms
  induction ms with
  | nil => exact fun s h _ _ => ⟨s, rfl, h, rfl⟩
  | cons m ms ih =>
    intro s h hno hreset
    rw [List.all_cons, Bool.and_eq_true] at hreset hno
    obtain ⟨hm, hms⟩ := hreset
    obtain ⟨t, ht, hsame, hdead⟩ := makeMove_blocked m s h (by simpa using hm) fun hcomp =>
      hno.elim id fun ⟨hc, _⟩ => by simp [hcomp] at hc
    have hblocked : mainBlocked t = true := by
      obtain ⟨hcont, hopDone, -⟩ := hsame.cont_opDone
      rwa [mainBlocked_iff, hcont, hopDone, ← mainBlocked_iff]
    obtain ⟨u, hu, hub, hsame'⟩ := ih t hblocked (hno.imp hdead fun ⟨_, hc⟩ => hc) hms
    exact ⟨u, (runMoves_cons_next m ms s t ht).trans hu, hub, hsame.trans hsame'⟩

/-- The main context stands at the await of an operation in flight, with `c` pending. -/
def InFlightAt (c : List MicroStep) (u : State) : Prop := u.cont = c ∧ u.busop ≠ .none ∧ u.opDone = false

/-- Its operation is complete and its await not yet taken. -/
def CompleteAt (c : List MicroStep) (u : State) : Prop := u.cont = c ∧ u.busop = .none ∧ u.opDone = true

/-- A move while the operation is in flight leaves it so, or completes it; one that can complete it does. -/
theorem makeMove_inFlight (m : Move) (c rest : List MicroStep) (s : State) (hc : c = .await :: rest)
    (h : InFlightAt c s) (hreset : isReset m = false) :
    ∃ t, makeMove m s = .next t ∧ (InFlightAt c t ∨ CompleteAt c t) ∧
      (isCompletion m = true → s.responding = true → CompleteAt c t) := by
  obtain ⟨hcont, hb, hd⟩ := h
  by_cases hcomp : isCompletion m = true ∧ s.responding = true
  · obtain ⟨hm, hr⟩ := hcomp
    cases m with
    | complete ans =>
      obtain ⟨hb', hd', hc'⟩ := completeBusOp_done ans s hr hb
      have hdone : CompleteAt c (completeBusOp ans s) := ⟨hc'.trans hcont, hb', hd'⟩
      exact ⟨_, rfl, .inr hdone, fun _ _ => hdone⟩
    | _ => cases hm
  · obtain ⟨t, ht, hsame, -⟩ := makeMove_blocked m s ((mainBlocked_iff s).2 ⟨⟨rest, hcont.trans hc⟩, hd⟩) hreset
      fun hm => by simpa using fun hr => hcomp ⟨hm, hr⟩
    obtain ⟨hcont', hopDone', hbusop'⟩ := hsame.cont_opDone
    exact ⟨t, ht, .inl ⟨hcont'.trans hcont, by rwa [hbusop'], hopDone'.trans hd⟩, fun hm hr => absurd ⟨hm, hr⟩ hcomp⟩

/-- Only the main context takes a completed await; until then it stays completed. -/
theorem makeMove_complete (m : Move) (c : List MicroStep) (s : State) (h : CompleteAt c s) (hreset : isReset m = false)
    (hmain : m ≠ .main) : ∃ t, makeMove m s = .next t ∧ CompleteAt c t := by
  obtain ⟨hcont, hb, hd⟩ := h
  cases m with
  | main => exact absurd rfl hmain
  | tick level => exact ⟨_, rfl, by simpa [takeTick] using hcont, by simpa [takeTick] using hb, by simpa [takeTick] using hd⟩
  | complete ans =>
    refine ⟨s, ?_, hcont, hb, hd⟩
    rw [makeMove, completeBusOp_idle ans s fun hr => hr.2 hb]
  | rtcTick => exact ⟨_, rfl, by simpa using hcont, by simpa using hb, by simpa using hd⟩
  | rtcSet hours minutes seconds => exact ⟨_, rfl, hcont, hb, hd⟩
  | noResp => exact ⟨_, rfl, hcont, hb, hd⟩
  | reset sel => cases hreset

/-- One move more of an infinite schedule. -/
theorem runMoves_firstMoves_succ (sched : Nat → Move) (n : Nat) (s t u : State)
    (h : runMoves (firstMoves sched n) s = .next t) (hm : makeMove (sched n) t = .next u) :
    runMoves (firstMoves sched (n + 1)) s = .next u := by
  rw [firstMoves, List.range_succ, List.map_append]
  exact (runMoves_append (firstMoves sched n) [sched n] s t h).trans (runMoves_cons_next _ [] _ _ hm)

section
variable (sched : Nat → Move) (s : State) (c rest : List MicroStep)

/-- The operation has been completed by the `n`-th move at the latest. -/
def CompletedBy (n : Nat) : Prop := ∃ j u, j ≤ n ∧ runMoves (firstMoves sched j) s = .next u ∧ CompleteAt c u

/-- At every point of the run the operation has been completed or is still in flight. -/
theorem completedBy_or_inFlight (hc : c = .await :: rest) (h : InFlightAt c s)
    (hreset : ∀ n, isReset (sched n) = false) (n : Nat) :
    CompletedBy sched s c n ∨ ∃ u, runMoves (firstMoves sched n) s = .next u ∧ InFlightAt c u := by
  induction n with
  | zero => exact .inr ⟨s, rfl, h⟩
  | succ n ih =>
    rcases ih with ⟨j, u, hj, hu⟩ | ⟨u, hu, hin⟩
    · exact .inl ⟨j, u, by omega, hu⟩
    · obtain ⟨t, ht, hin' | hdone, -⟩ := makeMove_inFlight (sched n) c rest u hc hin (hreset n)
      · exact .inr ⟨t, runMoves_firstMoves_succ sched n s u t hu ht, hin'⟩
      · exact .inl ⟨n + 1, t, le_rfl, runMoves_firstMoves_succ sched n s u t hu ht, hdone⟩

/-- A responsive bus completes the operation (40_timebus.md R125). -/
theorem completedBy_of_busResponsive (hc : c = .await :: rest) (h : InFlightAt c s)
    (hreset : ∀ n, isReset (sched n) = false) (hbus : BusResponsive sched s) : ∃ n, CompletedBy sched s c n := by
  obtain ⟨k, t, -, ht, hk⟩ := hbus 0 s rfl h.2.1
  rcases completedBy_or_inFlight sched s c rest hc h hreset k with hdone | ⟨u, hu, hin⟩
  · exact ⟨k, hdone⟩
  · obtain rfl : u = t := Host.Outcome.next.inj (hu.symm.trans ht)
    rcases hk with hk | ⟨hcomp, -, hr⟩
    · simp [hreset k] at hk
    · obtain ⟨v, hv, -, hdone⟩ := makeMove_inFlight (sched k) c rest u hc hin (hreset k)
      exact ⟨k + 1, k + 1, v, le_rfl, runMoves_firstMoves_succ sched k s u v hu hv, hdone hcomp hr⟩

/-- The await of the completed operation is the next move of the main context. -/
def FreedAt (n : Nat) : Prop := sched n = .main ∧ ∃ u, runMoves (firstMoves sched n) s = .next u ∧ CompleteAt c u

/-- From the completion on, the await has been taken or the operation stays completed. -/
theorem freedAt_or_complete (hreset : ∀ n, isReset (sched n) = false) (j : Nat) (u : State)
    (hu : runMoves (firstMoves sched j) s = .next u) (hdone : CompleteAt c u) (d : Nat) :
    (∃ n, FreedAt sched s c n) ∨ ∃ v, runMoves (firstMoves sched (j + d)) s = .next v ∧ CompleteAt c v := by
  induction d with
  | zero => exact .inr ⟨u, hu, hdone⟩
  | succ d ih =>
    rcases ih with hfreed | ⟨v, hv, hdone'⟩
    · exact .inl hfreed
    · by_cases hmain : sched (j + d) = .main
      · exact .inl ⟨j + d, hmain, v, hv, hdone'⟩
      · obtain ⟨w, hw, hdone''⟩ := makeMove_complete _ c v hdone' (hreset _) hmain
        exact .inr ⟨w, runMoves_firstMoves_succ sched (j + d) s v w hv hw, hdone''⟩

end

/-- Settles O36: BusResponsive completes the operation, and the next fair move of the main context takes its await. -/
theorem blockedMainContextIsFreedWhenResponsive : Obligations.BlockedMainContextIsFreedWhenResponsive := by
  intro sched s hfair hbus hreset hblocked hb
  obtain ⟨⟨rest, hc⟩, hd⟩ := (mainBlocked_iff s).1 hblocked
  obtain ⟨-, j, u, -, hu, hdone⟩ := completedBy_of_busResponsive sched s s.cont rest hc ⟨rfl, hb, hd⟩ hreset hbus
  obtain ⟨k, hk, hmain⟩ := hfair j
  have hfreed : ∃ n, FreedAt sched s s.cont n := by
    rcases freedAt_or_complete sched s s.cont hreset j u hu hdone (k - j) with hfreed | ⟨v, hv, hdone'⟩
    · exact hfreed
    · rw [Nat.add_sub_cancel' hk] at hv
      exact ⟨k, hmain, v, hv, hdone'⟩
  obtain ⟨n, hn, v, hv, hcont, hnone, hopDone⟩ := hfreed
  refine ⟨n, v, hv, hn, hcont, hnone, ?_⟩
  rw [hc]
  exact makeMove_main_await v rest (hcont.trans hc) hopDone

end Sys2Proof.Machine

/-! ### Micro-steps carried out by a list of moves: an operation is put together from its parts by `Carries.append` -/

namespace Sys2Proof.Machine

/-- The moves `l` carry the main context through the micro-steps `ms`, from the registers of `s` to those of `s'`, whatever
is pending after them. -/
def Carries (l : List Move) (ms : List MicroStep) (s s' : State) : Prop :=
  ∀ (rest : List MicroStep) (more : List Move), runMoves (l ++ more) (goOn (ms ++ rest) s) = runMoves more (goOn rest s')

theorem Carries.append {l l' : List Move} {ms ms' : List MicroStep} {s s1 s2 : State} (h : Carries l ms s s1)
    (h' : Carries l' ms' s1 s2) : Carries (l ++ l') (ms ++ ms') s s2 := by
  intro rest more
  rw [List.append_assoc, List.append_assoc, h, h']

theorem carries_act (a : Action) (s s1 : State) (h : performAction a s = .ok s1) : Carries [.main] [.act a] s s1 :=
  fun rest more => runMoves_act a rest s s1 more h

/-- A conditional whose bit is set opens its block (44_modecontroller.md R218 (c)). -/
theorem carries_ifSet (c : Cond) (b : Block) (s s' : State) (l : List Move) (hc : condHolds c s = true)
    (h : Carries l (blockSteps b) s s') : Carries (.main :: l) [.ifSet c b] s s' := by
  intro rest more
  rw [List.cons_append, List.singleton_append, runMoves_ifSet, if_pos hc]
  exact h rest more

/-- A conditional whose bit is clear is passed. -/
theorem carries_ifSet_not (c : Cond) (b : Block) (s : State) (hc : condHolds c s = false) :
    Carries [.main] [.ifSet c b] s s := by
  intro rest more
  rw [List.singleton_append, List.singleton_append, runMoves_ifSet, if_neg (by simp [hc])]
  rfl

/-- What the device's tick does to its registers depends on these only. -/
theorem rtcTick_rtcMem_congr (s t : State) (h : t.rtcMem = s.rtcMem) : (rtcTick t).rtcMem = (rtcTick s).rtcMem := by
  have hvalid : rtcTimeValid t = rtcTimeValid s := by simp only [rtcTimeValid, rtcRead, h]
  simp only [rtcTick, hvalid]
  split_ifs
  · simp only [rtcSetTime, rtcWrite, rtcRead, h]
  · exact h

/-- Going on keeps the device's registers and does not look at them. -/
theorem goOn_rtcMem (rest : List MicroStep) (s : State) (mem : Memory) :
    goOn rest { s with rtcMem := mem } = { goOn rest s with rtcMem := mem } := by
  cases rest with
  | nil => simp only [goOn, advancePc]; split_ifs <;> rfl
  | cons m rest => rfl

/-- The device's own tick between two micro-steps (20_memory.md R73). -/
theorem carries_rtcTick (s : State) : Carries [.rtcTick] [] s (rtcTick s) := by
  intro rest more
  have hmove : rtcTick (goOn rest s) = goOn rest (rtcTick s) := by
    calc rtcTick (goOn rest s)
        = { goOn rest s with rtcMem := (rtcTick (goOn rest s)).rtcMem } := rtcTick_frame _
      _ = { goOn rest s with rtcMem := (rtcTick s).rtcMem } := by rw [rtcTick_rtcMem_congr s _ (by simp)]
      _ = goOn rest { s with rtcMem := (rtcTick s).rtcMem } := (goOn_rtcMem rest s _).symm
      _ = goOn rest (rtcTick s) := by rw [← rtcTick_frame]
  rw [← hmove]
  rfl

/-- An operation whose expansion is carried out: entering it performs its first action, and the other moves end it. -/
theorem Carries.enter {a : Action} {ms : List MicroStep} {l : List Move} {s u : State}
    (h : Carries (.main :: l) (.act a :: ms) s u) (ha : ∃ s1, performAction a s = .ok s1) :
    ∃ t, enter (.act a :: ms) s = .next t ∧ runMoves l t = .next (advancePc u) := by
  obtain ⟨s1, h1⟩ := ha
  refine ⟨goOn ms s1, enter_act a ms s s1 h1, ?_⟩
  rw [← runMoves_act a ms s s1 l h1]
  simpa using h [] []

/-- Nothing in flight, and a device that answers under its own address: what a transfer needs (40_timebus.md R121, R122). -/
def DeviceReady (s : State) : Prop := s.busop = .none ∧ s.responding = true ∧ s.par.slaR ≠ s.par.slaW

/-- A transfer begins with an issue of START, which is legal while nothing is in flight. -/
theorem DeviceReady.start_ok {s : State} (h : DeviceReady s) : ∃ s1, performAction (.issue .start) s = .ok s1 :=
  ⟨handOver .start s, if_pos h.1⟩

end Sys2Proof.Machine

/-! ### The device operations (41_rtcdevice.md R140 to R146) -/

namespace Sys2Proof.Machine

/-- The state after a register read with the device answering (41_rtcdevice.md R140). -/
def afterRead (a : Byte) (s : State) : State :=
  { s with
    rx := rtcRead s a, trace := s.trace ++ readRegEvents s.par a (rtcRead s a), phase := .idle,
    opDone := false, rtcPtr := a, rtcSel := .none }

/-- The state after a register write with the device answering (41_rtcdevice.md R142). -/
def afterWrite (a b : Byte) (s : State) : State :=
  { s with
    trace := s.trace ++ writeRegEvents s.par a b, phase := .idle, opDone := false, rtcPtr := a, rtcSel := .none,
    rtcMem := s.rtcMem.write a.toNat b }

theorem carries_readReg (a : Byte) (s : State) (ack : Bit) (d : Byte) (h : DeviceReady s) :
    Carries (responsiveMoves (.device ack d) (readRegSteps (.lit a))) (readRegSteps (.lit a)) s (afterRead a s) := by
  obtain ⟨hb, hr, hw⟩ := h
  exact fun rest more => readReg_again a rest s ack d hb hr hw more

/-- `x` and `y` are the bytes the two operands stand for, which may be working registers. -/
theorem carries_writeReg (a b : ByteArg) (x y : Byte) (s : State) (ack : Bit) (d : Byte) (h : DeviceReady s)
    (ha : ∀ t : State, t.wh = s.wh → t.wm = s.wm → byteArg a t = x)
    (hy : ∀ t : State, t.wh = s.wh → t.wm = s.wm → byteArg b t = y) :
    Carries (responsiveMoves (.device ack d) (writeRegSteps a b)) (writeRegSteps a b) s (afterWrite x y s) := by
  obtain ⟨hb, hr, -⟩ := h
  exact fun rest more => writeReg_again a b x y rest s ack d hb hr ha hy more

/-- Settles O37: a register read is the whole operation. -/
theorem rdregCompletes : Obligations.RdregCompletes := by
  refine ⟨fun a => ?_, fun s a ack d hb hr hwf => ?_⟩
  · rw [← decode_encode (.rdreg a) rfl, encode, packWord_eq_ofNat]
    simp
  · have hready : DeviceReady s := ⟨hb, hr, s.par.wf_sla hwf⟩
    exact (carries_readReg a s ack d hready).enter hready.start_ok

/-- Reading the device's registers after a write of one of them. -/
theorem rtcRead_afterWrite (a b x : Byte) (s : State) (hs : s.rtcMem.wf = true) :
    rtcRead (afterWrite a b s) x = if x = a then b else rtcRead s x :=
  rtcRead_rtcWrite a b x s hs

@[simp] theorem rtcRead_advancePc (s : State) (x : Byte) : rtcRead (advancePc s) x = rtcRead s x := by
  simp [rtcRead]

/-- Settles O40: a register write is the whole operation. -/
theorem wrregCompletes : Obligations.WrregCompletes := by
  refine ⟨fun a b => ?_, fun s a b ack d hb hr hwf hmem => ?_⟩
  · rw [← decode_encode (.wrreg a b) rfl, encode, packWord_eq_ofNat]
    simp
  · have hready : DeviceReady s := ⟨hb, hr, s.par.wf_sla hwf⟩
    obtain ⟨t, ht, hrun⟩ := (carries_writeReg (.lit a) (.lit b) a b s ack d hready (fun _ _ _ => rfl)
      (fun _ _ _ => rfl)).enter hready.start_ok
    refine ⟨t, advancePc (afterWrite a b s), ht, hrun, ?_, ?_, fun x hx => ?_⟩
    · simp [afterWrite]
    · rw [rtcRead_advancePc, rtcRead_afterWrite a b a s hmem, if_pos rfl]
    · rw [rtcRead_advancePc, rtcRead_afterWrite a b x s hmem, if_neg hx]

/-- The state after a register read and the copy of RX into the time register `r` (41_rtcdevice.md R144). -/
def afterLoad (r : TimeReg) (a : Byte) (s : State) : State := loadTime r (afterRead a s)

theorem carries_load (r : TimeReg) (a : Byte) (s : State) (ack : Bit) (d : Byte) (h : DeviceReady s) :
    Carries (responsiveMoves (.device ack d) (readRegSteps (.lit a) ++ [MicroStep.act (.loadTime r)]))
      (readRegSteps (.lit a) ++ [MicroStep.act (.loadTime r)]) s (afterLoad r a s) := by
  rw [responsiveMoves_append]
  exact (carries_readReg a s ack d h).append (carries_act (.loadTime r) _ _ rfl)

theorem DeviceReady.afterLoad {s : State} (h : DeviceReady s) (r : TimeReg) (a : Byte) :
    DeviceReady (afterLoad r a s) := by
  simpa [DeviceReady, Machine.afterLoad, afterRead] using h

theorem DeviceReady.rtcTick {s : State} (h : DeviceReady s) : DeviceReady (rtcTick s) := by
  simpa [DeviceReady] using h

/-- The state after a read of the seconds, the minutes and the hours (41_rtcdevice.md R144). -/
def afterReadTime (s : State) : State :=
  { s with
    rx := rtcRead s 0x02#8, tsec := rtcRead s 0x00#8, tmin := rtcRead s 0x01#8, thrs := rtcRead s 0x02#8,
    trace := s.trace ++ readTimeEvents s.par (rtcRead s 0x00#8) (rtcRead s 0x01#8) (rtcRead s 0x02#8),
    phase := .idle, opDone := false, rtcPtr := 0x02#8, rtcSel := .none }

theorem afterLoad_three (s : State) :
    afterLoad .thrs Config.regHrs (afterLoad .tmin Config.regMin (afterLoad .tsec Config.regSec s)) = afterReadTime s := by
  simp only [afterReadTime, readTimeEvents, ← List.append_assoc]
  rfl

theorem carries_readTime (s : State) (ack : Bit) (d : Byte) (h : DeviceReady s) :
    Carries (responsiveMoves (.device ack d) readTimeSteps) readTimeSteps s (afterReadTime s) := by
  have hsec := carries_load .tsec Config.regSec s ack d h
  have hmin := carries_load .tmin Config.regMin _ ack d (h.afterLoad .tsec Config.regSec)
  have hhrs := carries_load .thrs Config.regHrs _ ack d ((h.afterLoad .tsec Config.regSec).afterLoad .tmin Config.regMin)
  rw [readTimeSteps, responsiveMoves_append, responsiveMoves_append, ← afterLoad_three]
  exact (hsec.append hmin).append hhrs

/-- Settles O41: three register reads, each with its copy. -/
theorem rdtimeCompletes : Obligations.RdtimeCompletes := by
  refine ⟨by decide, fun s ack d hb hr hwf => ?_⟩
  have hready : DeviceReady s := ⟨hb, hr, s.par.wf_sla hwf⟩
  exact (carries_readTime s ack d hready).enter hready.start_ok

/-- A read makes RX, and with it the time register, the byte the device holds when the transaction comes. -/
theorem afterLoad_reads (a : Byte) (s : State) :
    (afterLoad .tsec a s).tsec = rtcRead s a ∧ (afterLoad .tmin a s).tmin = rtcRead s a ∧
    (afterLoad .tmin a s).tsec = s.tsec ∧ (afterLoad .thrs a s).thrs = rtcRead s a ∧
    (afterLoad .thrs a s).tsec = s.tsec ∧ (afterLoad .thrs a s).tmin = s.tmin :=
  ⟨rfl, rfl, rfl, rfl, rfl, rfl⟩

/-- A read leaves the device's registers as they are. -/
@[simp] theorem rtcRead_afterLoad (r : TimeReg) (a x : Byte) (s : State) : rtcRead (afterLoad r a s) x = rtcRead s x := by
  cases r <;> rfl

/-- So the device's tick after a read makes of them what it would have made before. -/
@[simp] theorem rtcRead_rtcTick_afterLoad (r : TimeReg) (a x : Byte) (s : State) :
    rtcRead (rtcTick (afterLoad r a s)) x = rtcRead (rtcTick s) x := by
  have hmem : (afterLoad r a s).rtcMem = s.rtcMem := by simp [afterLoad, afterRead]
  rw [rtcRead, rtcTick_rtcMem_congr s _ hmem, rtcRead]

/-- The torn read with the device's tick after the first register. -/
theorem torn_after_seconds (s : State) (ack : Bit) (d : Byte) (h : DeviceReady s) :
    Carries (responsiveMoves (.device ack d) (readRegSteps (.lit 0x00#8) ++ [MicroStep.act (.loadTime .tsec)]) ++ [Move.rtcTick] ++
        responsiveMoves (.device ack d) (readRegSteps (.lit 0x01#8) ++ [MicroStep.act (.loadTime .tmin)] ++
          readRegSteps (.lit 0x02#8) ++ [MicroStep.act (.loadTime .thrs)])) readTimeSteps s
      (afterLoad .thrs 0x02#8 (afterLoad .tmin 0x01#8 (rtcTick (afterLoad .tsec 0x00#8 s)))) := by
  have hsec := carries_load .tsec 0x00#8 s ack d h
  have htick := carries_rtcTick (afterLoad .tsec 0x00#8 s)
  have hready := (h.afterLoad .tsec 0x00#8).rtcTick
  have hmin := carries_load .tmin 0x01#8 _ ack d hready
  have hhrs := carries_load .thrs 0x02#8 _ ack d (hready.afterLoad .tmin 0x01#8)
  have hrest := hmin.append hhrs
  rw [← responsiveMoves_append, ← List.append_assoc] at hrest
  simpa only [readTimeSteps, Config.regSec, Config.regMin, Config.regHrs, List.append_assoc, List.nil_append] using
    (hsec.append htick).append hrest

/-- The torn read with the device's tick after the second register. -/
theorem torn_after_minutes (s : State) (ack : Bit) (d : Byte) (h : DeviceReady s) :
    Carries (responsiveMoves (.device ack d) (readRegSteps (.lit 0x00#8) ++ [MicroStep.act (.loadTime .tsec)] ++
          readRegSteps (.lit 0x01#8) ++ [MicroStep.act (.loadTime .tmin)]) ++ [Move.rtcTick] ++
        responsiveMoves (.device ack d) (readRegSteps (.lit 0x02#8) ++ [MicroStep.act (.loadTime .thrs)])) readTimeSteps s
      (afterLoad .thrs 0x02#8 (rtcTick (afterLoad .tmin 0x01#8 (afterLoad .tsec 0x00#8 s)))) := by
  have hsec := carries_load .tsec 0x00#8 s ack d h
  have hmin := carries_load .tmin 0x01#8 _ ack d (h.afterLoad .tsec 0x00#8)
  have htick := carries_rtcTick (afterLoad .tmin 0x01#8 (afterLoad .tsec 0x00#8 s))
  have hhrs := carries_load .thrs 0x02#8 _ ack d ((h.afterLoad .tsec 0x00#8).afterLoad .tmin 0x01#8).rtcTick
  have hfirst := hsec.append hmin
  rw [← responsiveMoves_append, ← List.append_assoc] at hfirst
  simpa only [readTimeSteps, Config.regSec, Config.regMin, Config.regHrs, List.append_assoc, List.nil_append] using
    (hfirst.append htick).append hhrs

/-- Settles O42: each register is read as it is when its own transaction comes. -/
theorem rdtimeCanBeTorn : Obligations.RdtimeCanBeTorn := by
  intro s ack d hb hr hwf
  have hready : DeviceReady s := ⟨hb, hr, s.par.wf_sla hwf⟩
  constructor
  · obtain ⟨t, ht, hrun⟩ := (torn_after_seconds s ack d hready).enter hready.start_ok
    exact ⟨t, _, ht, hrun, by simp [afterLoad_reads], by simp [afterLoad_reads], by simp [afterLoad_reads], by simp⟩
  · obtain ⟨t, ht, hrun⟩ := (torn_after_minutes s ack d hready).enter hready.start_ok
    exact ⟨t, _, ht, hrun, by simp [afterLoad_reads], by simp [afterLoad_reads], by simp [afterLoad_reads], by simp⟩

/-- The state after a write of the seconds, the minutes and the hours (41_rtcdevice.md R146). -/
def afterWriteTime (hours minutes seconds : Byte) (s : State) : State :=
  { rtcSetTime hours minutes seconds s with
    trace := s.trace ++ writeTimeEvents s.par hours minutes seconds, phase := .idle, opDone := false, rtcPtr := 0x02#8,
    rtcSel := .none }

theorem afterWrite_three (h m sec : Byte) (s : State) :
    afterWrite Config.regHrs (dec2bcd h) (afterWrite Config.regMin (dec2bcd m) (afterWrite Config.regSec (dec2bcd sec) s)) =
      afterWriteTime h m sec s := by
  simp only [afterWriteTime, writeTimeEvents, ← List.append_assoc]
  rfl

theorem DeviceReady.afterWrite {s : State} (h : DeviceReady s) (a b : Byte) : DeviceReady (afterWrite a b s) := h

/-- `x`, `y`, `z` are the numbers the operands stand for, which may be working registers. -/
theorem carries_writeTime (hours minutes seconds : NumArg) (x y z : Byte) (s : State) (ack : Bit) (d : Byte)
    (h : DeviceReady s) (hx : ∀ t : State, t.wh = s.wh → t.wm = s.wm → numArg hours t = x)
    (hy : ∀ t : State, t.wh = s.wh → t.wm = s.wm → numArg minutes t = y)
    (hz : ∀ t : State, t.wh = s.wh → t.wm = s.wm → numArg seconds t = z) :
    Carries (responsiveMoves (.device ack d) (writeTimeSteps hours minutes seconds))
      (writeTimeSteps hours minutes seconds) s (afterWriteTime x y z s) := by
  have hsec := carries_writeReg (.lit Config.regSec) (.bcd seconds) _ (dec2bcd z) s ack d h (fun _ _ _ => rfl)
    fun t h1 h2 => congrArg dec2bcd (hz t h1 h2)
  have hmin := carries_writeReg (.lit Config.regMin) (.bcd minutes) _ (dec2bcd y) _ ack d
    (h.afterWrite Config.regSec (dec2bcd z)) (fun _ _ _ => rfl) fun t h1 h2 => congrArg dec2bcd (hy t h1 h2)
  have hhrs := carries_writeReg (.lit Config.regHrs) (.bcd hours) _ (dec2bcd x) _ ack d
    ((h.afterWrite Config.regSec (dec2bcd z)).afterWrite Config.regMin (dec2bcd y)) (fun _ _ _ => rfl)
    fun t h1 h2 => congrArg dec2bcd (hx t h1 h2)
  rw [writeTimeSteps, responsiveMoves_append, responsiveMoves_append, ← afterWrite_three]
  exact (hsec.append hmin).append hhrs

/-- Reading the device's registers after its time was written. -/
theorem rtcRead_afterWriteTime (h m sec x : Byte) (s : State) (hs : s.rtcMem.wf = true) :
    rtcRead (afterWriteTime h m sec s) x =
      if x = 0x02#8 then dec2bcd h else if x = 0x01#8 then dec2bcd m else if x = 0x00#8 then dec2bcd sec
      else rtcRead s x :=
  rtcRead_rtcSetTime h m sec x s hs

/-- Settles O43: three register writes. -/
theorem wrtimeCompletes : Obligations.WrtimeCompletes := by
  refine ⟨fun a b c => ?_, fun s a b c ack d hb hr hwf hmem => ?_⟩
  · rw [← decode_encode (.wrtime a b c) rfl, encode, packWord_eq_ofNat]
    rfl
  · have hready : DeviceReady s := ⟨hb, hr, s.par.wf_sla hwf⟩
    obtain ⟨t, ht, hrun⟩ := (carries_writeTime (.lit a) (.lit b) (.lit c) a b c s ack d hready (fun _ _ _ => rfl)
      (fun _ _ _ => rfl) (fun _ _ _ => rfl)).enter hready.start_ok
    have hread := fun x => rtcRead_afterWriteTime a b c x s hmem
    refine ⟨t, advancePc (afterWriteTime a b c s), ht, hrun, ?_, ?_, ?_, ?_, fun x h0 h1 h2 => ?_⟩
    · simp [afterWriteTime, rtcSetTime, rtcWrite]
    · simp [hread]
    · simp [hread]
    · simp [hread]
    · simp [hread, h0, h1, h2]

end Sys2Proof.Machine

/-! ### Ticks inside a register read (60_exceptions.md R233, R236) -/

namespace Sys2Proof.Machine

/-- The micro-steps of the bus: no test or clear of a flag, no conditional. -/
def busStep (m : MicroStep) : Bool :=
  match m with
  | .act (.issue _) => true
  | .act .stop => true
  | .await => true
  | _ => false

/-- Going on keeps the debouncer and does not look at it. -/
theorem goOn_withDebouncer (rest : List MicroStep) (hold : BitVec 7) (sp lp : Bool) (s : State) :
    goOn rest (withDebouncer hold sp lp s) = withDebouncer hold sp lp (goOn rest s) := by
  cases rest with
  | nil =>
    have hpc : (withDebouncer hold sp lp s).pc = s.pc := rfl
    have hpar : (withDebouncer hold sp lp s).par = s.par := rfl
    simp only [goOn, advancePc, hpc, hpar]
    split_ifs <;> rfl
  | cons m rest => rfl

/-- A register action of the bus does not look at the debouncer. -/
theorem performAction_withDebouncer (a : Action) (hold : BitVec 7) (sp lp : Bool) (s s1 : State)
    (ha : busStep (.act a) = true) (h : performAction a s = .ok s1) :
    performAction a (withDebouncer hold sp lp s) = .ok (withDebouncer hold sp lp s1) := by
  cases a with
  | issue c =>
    obtain ⟨hb, ⟨rfl, rfl⟩ | ⟨b, rfl, hp, rfl⟩ | ⟨rfl, hp, rfl⟩⟩ := performAction_issue c s s1 h
    · exact if_pos hb
    · have hbyte : byteArg b (withDebouncer hold sp lp s) = byteArg b s := by
        cases b with
        | bcd n => cases n <;> rfl
        | _ => rfl
      exact ((if_pos hb).trans (if_pos hp)).trans (by rw [hbyte]; rfl)
    · exact (if_pos hb).trans (if_pos hp)
  | stop =>
    simp only [performAction, stopBus] at h
    split_ifs at h with hp
    cases h
    exact if_pos hp
  | _ => cases ha

/-- A micro-step of the bus does not look at the debouncer. -/
theorem runMicro_withDebouncer (m : MicroStep) (rest : List MicroStep) (hold : BitVec 7) (sp lp : Bool) (s s' : State)
    (hm : busStep m = true) (h : runMicro m rest s = .next s') :
    runMicro m rest (withDebouncer hold sp lp s) = .next (withDebouncer hold sp lp s') := by
  rcases runMicro_next m rest s s' h with ⟨a, s1, rfl, ha, rfl⟩ | ⟨rfl, hd, rfl⟩ | ⟨rfl, hd, rfl⟩ | ⟨c, b, rfl, -⟩
  · simp only [runMicro, performAction_withDebouncer a hold sp lp s s1 hm ha, goOn_withDebouncer]
  · rw [← goOn_withDebouncer]
    exact if_pos hd
  · exact if_neg (by simpa [withDebouncer] using hd)
  · cases hm

/-- After a micro-step of the bus the rest is pending, or it was a blocked await and nothing changed. -/
theorem runMicro_busStep_cont (m : MicroStep) (rest : List MicroStep) (s s' : State) (hm : busStep m = true)
    (h : runMicro m rest s = .next s') : s'.cont = rest ∨ s' = s := by
  rcases runMicro_next m rest s s' h with ⟨a, s1, -, -, rfl⟩ | ⟨-, -, rfl⟩ | ⟨-, -, rfl⟩ | ⟨c, b, rfl, -⟩
  · exact .inl (by simp)
  · exact .inl (by simp)
  · exact .inr rfl
  · cases hm

/-- A list of moves of the main context, the engine and the tick: only bus steps are pending, and the main context moves no
more often than there are. -/
structure BusRun (ms : List Move) (s : State) : Prop where
  agents : ∀ m ∈ ms, isTick m = true ∨ m = .main ∨ isCompletion m = true
  steps : s.cont.all busStep = true
  count : ms.count .main ≤ s.cont.length

/-- A list of moves that runs to its end runs its first move. -/
theorem runMoves_cons_inv (m : Move) (ms : List Move) (s u : State) (h : runMoves (m :: ms) s = .next u) :
    ∃ s1, makeMove m s = .next s1 ∧ runMoves ms s1 = .next u := by
  rw [runMoves] at h
  cases hm : makeMove m s with
  | next s1 => rw [hm] at h; exact ⟨s1, rfl, h⟩
  | fault f => rw [hm] at h; cases h
  | refused r => rw [hm] at h; cases h

/-- In such a list ticks between the other moves change the debouncer only (60_exceptions.md R236). -/
theorem runMoves_with_ticks (ms : List Move) (s u : State) (hold : BitVec 7) (sp lp : Bool) (hrun : BusRun ms s)
    (h : runMoves (ms.filter fun m => !isTick m) s = .next u) :
    ∃ hold' sp' lp', runMoves ms (withDebouncer hold sp lp s) = .next (withDebouncer hold' sp' lp' u) := by
  induction ms generalizing s hold sp lp with
  | nil => cases h; exact ⟨hold, sp, lp, rfl⟩
  | cons m ms ih =>
    obtain ⟨hagents, hsteps, hcount⟩ := hrun
    have hrest := fun m' hm' => hagents m' (List.mem_cons_of_mem _ hm')
    cases m with
    | tick level =>
      obtain ⟨hold1, sp1, lp1, hsample⟩ := sampleButton_withDebouncer level (withDebouncer hold sp lp s)
      have hmove : makeMove (.tick level) (withDebouncer hold sp lp s) = .next (withDebouncer hold1 sp1 lp1 s) :=
        congrArg Host.Outcome.next (hsample _ rfl rfl rfl)
      rw [runMoves_cons_next _ _ _ _ hmove]
      exact ih s hold1 sp1 lp1 ⟨hrest, hsteps, by simpa using hcount⟩ (by simpa [isTick] using h)
    | complete ans =>
      have hmove : makeMove (.complete ans) (withDebouncer hold sp lp s) =
          .next (withDebouncer hold sp lp (completeBusOp ans s)) :=
        congrArg Host.Outcome.next (completeBusOp_withDebouncer ans hold sp lp s)
      rw [runMoves_cons_next _ _ _ _ hmove]
      exact ih _ hold sp lp ⟨hrest, by simpa using hsteps, by simpa using hcount⟩ h
    | main =>
      rw [List.count_cons_self] at hcount
      cases hc : s.cont with
      | nil => rw [hc] at hcount; simp at hcount
      | cons m' rest =>
        rw [hc, List.all_cons, Bool.and_eq_true] at hsteps
        obtain ⟨hm', hsteps'⟩ := hsteps
        obtain ⟨s1, hmove, hu⟩ := runMoves_cons_inv .main _ s u h
        rw [makeMove_main_cons s m' rest hc] at hmove
        have hmove' : makeMove .main (withDebouncer hold sp lp s) = .next (withDebouncer hold sp lp s1) :=
          (makeMove_main_cons (withDebouncer hold sp lp s) m' rest hc).trans (runMicro_withDebouncer m' rest hold sp lp s s1 hm' hmove)
        rw [runMoves_cons_next _ _ _ _ hmove']
        rw [hc, List.length_cons] at hcount
        refine ih s1 hold sp lp ?_ hu
        rcases runMicro_busStep_cont m' rest s s1 hm' hmove with hc1 | rfl
        · exact ⟨hrest, by rwa [hc1], by rw [hc1]; omega⟩
        · exact ⟨hrest, by simp [hc, hm', hsteps'], by rw [hc, List.length_cons]; omega⟩
    | _ => simpa [isTick, isCompletion] using hagents _ (List.mem_cons_self ..)

/-- The moves that carry a main context through its micro-steps: its own, one for each, and completions. -/
theorem mem_responsiveMoves (ans : BusAnswer) (ms : List MicroStep) (m : Move) (h : m ∈ responsiveMoves ans ms) :
    m = .main ∨ isCompletion m = true := by
  obtain ⟨step, -, hm⟩ := List.mem_flatMap.1 h
  cases step with
  | await =>
    rcases List.mem_pair.1 hm with rfl | rfl
    · exact .inr rfl
    · exact .inl rfl
  | act a => exact .inl (List.mem_singleton.1 hm)
  | ifSet c b => exact .inl (List.mem_singleton.1 hm)

theorem count_main_responsiveMoves (ans : BusAnswer) (ms : List MicroStep) :
    (responsiveMoves ans ms).count .main = ms.length := by
  induction ms with
  | nil => rfl
  | cons m ms ih =>
    have hcons : responsiveMoves ans (m :: ms) = responsiveMoves ans [m] ++ responsiveMoves ans ms :=
      responsiveMoves_append ans [m] ms
    have hone : (responsiveMoves ans [m]).count .main = 1 := by
      cases m <;> simp [responsiveMoves]
    rw [hcons, List.count_append, hone, ih, List.length_cons, Nat.add_comm]

/-- A schedule that is a bus composite's once its ticks are left out. -/
theorem busRun_of_filter (ans : BusAnswer) (steps : List MicroStep) (ms : List Move) (s : State)
    (hfilter : ms.filter (fun m => !isTick m) = responsiveMoves ans steps) (hc : s.cont = steps)
    (hsteps : steps.all busStep = true) : BusRun ms s := by
  refine ⟨fun m hm => ?_, by rwa [hc], ?_⟩
  · by_cases htick : isTick m = true
    · exact .inl htick
    · have hmem : m ∈ ms.filter (fun m => !isTick m) := List.mem_filter.2 ⟨hm, by simpa using htick⟩
      rw [hfilter] at hmem
      exact .inr (mem_responsiveMoves ans steps m hmem)
  · have hcount : (ms.filter fun m => !isTick m).count .main = ms.count .main := List.count_filter rfl
    rw [hc, ← hcount, hfilter, count_main_responsiveMoves]

/-- Settles O38: every micro-step of the read is one of the bus, which does not look at the debouncer. -/
theorem rdregIsUnaffectedByTicks : Obligations.RdregIsUnaffectedByTicks := by
  intro s a ack d ms hb hr hwf hfilter
  have hexec : exec (.rdreg a) s = .next (goOn (readRegSteps (.lit a)).tail (handOver .start s)) :=
    enter_act (.issue .start) _ s _ (if_pos hb)
  obtain ⟨t, ht, hrun⟩ := rdregCompletes.2 s a ack d hb hr hwf
  obtain rfl := Host.Outcome.next.inj (hexec.symm.trans ht)
  have hbus : BusRun ms (goOn (readRegSteps (.lit a)).tail (handOver .start s)) :=
    busRun_of_filter (.device ack d) _ ms _ hfilter rfl rfl
  obtain ⟨hold, sp, lp, hu⟩ := runMoves_with_ticks ms _ _ s.hold s.sp s.lp hbus (by rw [hfilter]; exact hrun)
  exact ⟨_, _, hexec, hu, (goOn_withDebouncer [] s.hold s.sp s.lp (afterRead a s)).symm⟩

end Sys2Proof.Machine

/-! ### A device that takes no part (40_timebus.md R130) -/

namespace Sys2Proof.Machine

/-- An issue, its completion and its await, inside a longer operation. -/
theorem carries_issue_await (c : BusCmd) (op : BusOp) (e : BusEvent) (s t : State) (ans : BusAnswer)
    (hissue : performAction (.issue c) s = .ok (handOver op s)) (hb : t.busop = .none)
    (hdone : ∀ rest, completeBusOp ans (goOn (.await :: rest) (handOver op s)) =
      finishBusOp (emit e (goOn (.await :: rest) (handOver op t)))) :
    Carries [.main, .complete ans, .main] [.act (.issue c), .await] s
      { t with trace := t.trace ++ [e], opDone := false } := by
  intro rest more
  exact (runMoves_act (.issue c) (.await :: rest) s _ _ hissue).trans (await_run op e s t ans rest more hb (hdone rest))

/-! The four primitives with every completion answered without the device, each after what went before it. -/

section
variable {l : List Move} {ms : List MicroStep} {s0 s : State} (h : Carries l ms s0 s) (ack : Bit) (d : Byte)
include h

theorem Carries.start_undriven (hb : s.busop = .none) (hr : s.responding = true) :
    Carries (l ++ responsiveMoves (.undriven ack d) startSteps) (ms ++ startSteps) s0
      { s with trace := s.trace ++ [.start], phase := .active, opDone := false } :=
  h.append (carries_issue_await .start .start .start s { s with phase := .active } _ (if_pos hb) hb fun _ => if_pos hr)

theorem Carries.send_undriven (a : ByteArg) (hb : s.busop = .none) (hr : s.responding = true) (hp : s.phase = .active) :
    Carries (l ++ responsiveMoves (.undriven ack d) (sendSteps a)) (ms ++ sendSteps a) s0
      { s with trace := s.trace ++ [.wbyte (byteArg a s) ack], opDone := false } :=
  h.append (carries_issue_await (.write a) _ (.wbyte (byteArg a s) ack) s s _ ((if_pos hb).trans (if_pos hp)) hb
    fun _ => if_pos hr)

theorem Carries.receive_undriven (hb : s.busop = .none) (hr : s.responding = true) (hp : s.phase = .active) :
    Carries (l ++ responsiveMoves (.undriven ack d) receiveSteps) (ms ++ receiveSteps) s0
      { s with rx := d, trace := s.trace ++ [.rbyte d Config.rdAck], opDone := false } :=
  h.append (carries_issue_await .read .read (.rbyte d Config.rdAck) s { s with rx := d } _
    ((if_pos hb).trans (if_pos hp)) hb fun _ => if_pos hr)

theorem Carries.stop_undriven (hp : s.phase = .active) :
    Carries (l ++ responsiveMoves (.undriven ack d) stopSteps) (ms ++ stopSteps) s0
      { s with trace := s.trace ++ [.stop], phase := .idle, rtcSel := .none } :=
  h.append (carries_act .stop s _ (if_pos hp))

end

theorem carries_nil (s : State) : Carries [] [] s s := fun _ _ => rfl

/-- The state after a register read that the device takes no part in. -/
def afterAbsentRead (a : Byte) (ack : Bit) (d : Byte) (s : State) : State :=
  { s with
    rx := d
    trace := s.trace ++ [.start, .wbyte s.par.slaW ack, .wbyte a ack, .start, .wbyte s.par.slaR ack,
      .rbyte d Config.rdAck, .stop]
    phase := .idle, opDone := false, rtcSel := .none }

theorem carries_absentRead (a : Byte) (s : State) (ack : Bit) (d : Byte) (hb : s.busop = .none)
    (hr : s.responding = true) :
    Carries (responsiveMoves (.undriven ack d) (readRegSteps (.lit a))) (readRegSteps (.lit a)) s
      (afterAbsentRead a ack d s) := by
  have haddress := ((carries_nil s).start_undriven ack d hb hr).send_undriven ack d .slaW hb hr rfl
  have hpointer := haddress.send_undriven ack d (.lit a) hb hr rfl
  have hagain := (hpointer.start_undriven ack d hb hr).send_undriven ack d .slaR hb hr rfl
  have hall := (hagain.receive_undriven ack d hb hr rfl).stop_undriven ack d rfl
  simpa only [readRegSteps, responsiveMoves_append, afterAbsentRead, byteArg, List.append_assoc, List.cons_append,
    List.nil_append] using hall

/-- The state after a register write that the device takes no part in. -/
def afterAbsentWrite (a b : Byte) (ack : Bit) (s : State) : State :=
  { s with
    trace := s.trace ++ [.start, .wbyte s.par.slaW ack, .wbyte a ack, .wbyte b ack, .stop]
    phase := .idle, opDone := false, rtcSel := .none }

theorem carries_absentWrite (a b : Byte) (s : State) (ack : Bit) (d : Byte) (hb : s.busop = .none)
    (hr : s.responding = true) :
    Carries (responsiveMoves (.undriven ack d) (writeRegSteps (.lit a) (.lit b))) (writeRegSteps (.lit a) (.lit b)) s
      (afterAbsentWrite a b ack s) := by
  have haddress := ((carries_nil s).start_undriven ack d hb hr).send_undriven ack d .slaW hb hr rfl
  have hpointer := haddress.send_undriven ack d (.lit a) hb hr rfl
  have hall := (hpointer.send_undriven ack d (.lit b) hb hr rfl).stop_undriven ack d rfl
  simpa only [writeRegSteps, responsiveMoves_append, afterAbsentWrite, byteArg, List.append_assoc, List.cons_append,
    List.nil_append] using hall

/-- Settles O39: the primitives need only that the engine finishes each byte. -/
theorem absentDeviceIsNotNoticed : Obligations.AbsentDeviceIsNotNoticed := by
  intro s a b ack d hb hr
  have hstart : ∃ s1, performAction (.issue .start) s = .ok s1 := ⟨handOver .start s, if_pos hb⟩
  exact ⟨(carries_absentRead a s ack d hb hr).enter hstart, (carries_absentWrite a b s ack d hb hr).enter hstart⟩

end Sys2Proof.Machine

/-! ### The parts of a MODESTEP body (44_modecontroller.md R201 to R205) -/

namespace Sys2Proof.Machine

/-- A digit value that exists is stored in its slot (43_displaydriver.md R184). -/
theorem Carries.setDig {l : List Move} {ms : List MicroStep} {s0 s : State} (h : Carries l ms s0 s) (t : Fin 4)
    (v : DigArg) (d : Nibble) (hd : digArg v s = .ok d) :
    Carries (l ++ [Move.main]) (ms ++ [MicroStep.act (.setDig t v)]) s0 (storeDigit t d s) :=
  h.append (carries_act _ s _ (by simp [performAction, hd]))

/-- The two digits of an operand at most 99, a working register included (43_displaydriver.md R184). -/
theorem digArg_digits (n : NumArg) (s : State) (h : (numArg n s).toNat ≤ 99) :
    digArg (.tens n) s = .ok (tensDigit (numArg n s).toNat) ∧ digArg (.units n) s = .ok (unitsDigit (numArg n s).toNat) := by
  simp [digArg, displayDigit, h, tensDigit, unitsDigit]

/-- REFRESH under a legal wiring. -/
theorem carries_refresh (s : State) (h : s.par.wf = true) :
    Carries [.main] [.act .refresh] s { s with lines := linesOf s.par s.dig } :=
  carries_act .refresh s _ (congrArg Except.ok (driveLines_eq s h))

/-- The slots `q`, and the lines that show the slots `q'`. -/
def shown (q q' : Quad Nibble) (s : State) : State := { s with dig := q, lines := linesOf s.par q' }

/-- The push of the blanked pair, in this iteration or not (44_modecontroller.md R205). -/
theorem Carries.blankPush {l : List Move} {ms : List MicroStep} {s0 s : State} {q q' : Quad Nibble}
    (h : Carries l ms s0 (shown q q' s)) (ans : BusAnswer) (p : BlankPush) (hwf : s.par.wf = true) :
    Carries (l ++ responsiveMoves ans (blankPushSteps p)) (ms ++ blankPushSteps p) s0
      (shown q (match p with | .sameIteration => q | .nextRefresh => q') s) := by
  cases p with
  | sameIteration => exact h.append (carries_refresh (shown q q' s) hwf)
  | nextRefresh => exact h.append (carries_nil _)

/-- The time last read on the tubes (44_modecontroller.md R201 C2). -/
def timeSlots (s : State) : Quad Nibble := ⟨hiNibble s.thrs, loNibble s.thrs, hiNibble s.tmin, loNibble s.tmin⟩

theorem carries_showTime (s : State) (h : s.par.wf = true) :
    Carries [.main, .main, .main, .main, .main]
      [.act (.setDig 0 (.hi .thrs)), .act (.setDig 1 (.lo .thrs)), .act (.setDig 2 (.hi .tmin)),
        .act (.setDig 3 (.lo .tmin)), .act .refresh] s (shown (timeSlots s) (timeSlots s) s) := by
  have hdigits := ((((carries_nil s).setDig 0 (.hi .thrs) (hiNibble s.thrs) rfl).setDig 1 (.lo .thrs) (loNibble s.thrs)
    rfl).setDig 2 (.hi .tmin) (hiNibble s.tmin) rfl).setDig 3 (.lo .tmin) (loNibble s.tmin) rfl
  have hslots : storeDigit 3 (loNibble s.tmin) (storeDigit 2 (hiNibble s.tmin) (storeDigit 1 (loNibble s.thrs)
      (storeDigit 0 (hiNibble s.thrs) s))) = { s with dig := timeSlots s } := by
    simp only [storeDigit, Quad.set, timeSlots]
  rw [hslots] at hdigits
  exact hdigits.append (carries_refresh { s with dig := timeSlots s } h)

/-- The test of a flag, the conditional and its block of register actions (44_modecontroller.md R204): `s1` is the state
after the test, `u` the one after the block. -/
theorem carries_flag (a : Action) (b : Block) (n : Nat) (s s1 u : State) (set : Bool) (ha : performAction a s = .ok s1)
    (hl : s1.latch = set) (hblock : set = true → Carries (List.replicate n .main) (blockSteps b) s1 u) :
    Carries (pressMoves set n) [.act a, .ifSet .latchT b] s (if set then u else s1) := by
  have htest := carries_act a s s1 ha
  cases set with
  | false => exact htest.append (carries_ifSet_not .latchT b s1 hl)
  | true => exact htest.append (carries_ifSet .latchT b s1 u _ hl (hblock rfl))

/-- The handling of one flag: `test` copies it, `done` is what its block does. -/
def flagHandled (set : Bool) (test done : State → State) (s : State) : State := if set then done (test s) else test s

/-- The handling of both flags, ShortPress first (44_modecontroller.md R204). -/
def handled (short long : State → State) (s : State) : State :=
  flagHandled s.lp testLong long (flagHandled s.sp testShort short s)

/-- Blocks of register actions that leave LP for the second test. -/
theorem carries_press {b b' : Block} {n k : Nat} {short long : State → State}
    (hshort : ∀ s, Carries (List.replicate n .main) (blockSteps b) s (short s))
    (hlong : ∀ s, Carries (List.replicate k .main) (blockSteps b') s (long s)) (hlp : ∀ s, (short s).lp = s.lp)
    (s : State) : Carries (pressMoves s.sp n ++ pressMoves s.lp k) (pressSteps b b') s (handled short long s) := by
  have hfirst := carries_flag .tstSp b n s (testShort s) _ s.sp rfl rfl fun _ => hshort _
  refine hfirst.append (carries_flag .tstLp b' k _ (testLong _) _ s.lp rfl ?_ fun _ => hlong _)
  cases s.sp
  · rfl
  · exact hlp (testShort s)

/-- A register action more. -/
theorem Carries.act {l : List Move} {ms : List MicroStep} {s0 s : State} (h : Carries l ms s0 s) (a : Action) (s1 : State)
    (ha : performAction a s = .ok s1) : Carries (l ++ [Move.main]) (ms ++ [MicroStep.act a]) s0 s1 :=
  h.append (carries_act a s s1 ha)

end Sys2Proof.Machine

/-! ### MODESTEP in ClockMode (44_modecontroller.md R201) -/

namespace Sys2Proof.Machine

/-- Under ShortPress: clear the flag, toggle the backlight. -/
def clockShortDone (s : State) : State := setBacklight (!s.bl) (clearShort s)

theorem carries_clockShort (s : State) : Carries (List.replicate 2 .main) (blockSteps .clockShort) s (clockShortDone s) :=
  (carries_act .clrSp s _ rfl).append (carries_act .blToggle _ _ rfl)

/-- Under LongPress: clear the flag, seed the working values, enter SettingsMode Hours. -/
def clockLongDone (s : State) : State := seedWorking (clearLong s)

theorem carries_clockLong (s : State) : Carries (List.replicate 2 .main) (blockSteps .clockLong) s (clockLongDone s) :=
  (carries_act .clrLp s _ rfl).append (carries_act .seed _ _ rfl)

/-- The handling of both flags in ClockMode. -/
def clockHandled (s : State) : State := handled clockShortDone clockLongDone s

theorem carries_clockPress (s : State) :
    Carries (pressMoves s.sp 2 ++ pressMoves s.lp 2) (pressSteps .clockShort .clockLong) s (clockHandled s) :=
  carries_press carries_clockShort carries_clockLong (fun _ => rfl) s

/-- What the handling of both flags leaves in ClockMode, as one record update. -/
theorem clockHandled_eq (s : State) :
    clockHandled s = { s with
      latch := s.lp, sp := false, lp := false
      bl := if s.sp then !s.bl else s.bl
      wh := if s.lp then bcd2dec s.thrs else s.wh
      wm := if s.lp then bcd2dec s.tmin else s.wm
      chg := if s.lp then false else s.chg
      mode := if s.lp then 1#2 else s.mode } := by
  cases hsp : s.sp <;> cases hlp : s.lp <;>
    simp [clockHandled, handled, flagHandled, clockShortDone, clockLongDone, testShort, testLong, clearShort, clearLong, setBacklight,
      seedWorking, hsp, hlp]

/-- An operation whose expansion begins with micro-steps that the engine answers at once, entered and carried out. -/
theorem Carries.enter_responsive {a : Action} {ms tail : List MicroStep} {l : List Move} {s u : State} {ans : BusAnswer}
    (h : Carries (responsiveMoves ans (.act a :: ms) ++ l) ((.act a :: ms) ++ tail) s u)
    (ha : ∃ s1, performAction a s = .ok s1) :
    ∃ t, Machine.enter ((.act a :: ms) ++ tail) s = .next t ∧
      runMoves (remainingMoves ans (.act a :: ms) ++ l) t = .next (advancePc u) :=
  Carries.enter h ha

/-- Settles O54: the read, the display and the handling of the two flags, one after another. -/
theorem modestepInClockMode : Obligations.ModestepInClockMode := by
  refine ⟨by decide, fun s ack d hmode hb hr hwf => ?_⟩
  have hready : DeviceReady s := ⟨hb, hr, s.par.wf_sla hwf⟩
  have hshow := (carries_readTime s ack d hready).append (carries_showTime (afterReadTime s) hwf)
  have hall := hshow.append (carries_clockPress _)
  obtain ⟨t, ht, hrun⟩ := Carries.enter_responsive (ans := .device ack d) hall hready.start_ok
  refine ⟨t, ?_, ?_⟩
  · rw [exec_modestep s (by simp [hmode]), modeBody, hmode]
    exact ht
  · rw [List.append_assoc]
    refine hrun.trans ?_
    simp only [clockHandled_eq, shown, afterReadTime, timeSlots, hmode]

end Sys2Proof.Machine

/-! ### MODESTEP in the settings modes (44_modecontroller.md R202, R203, R205) -/

namespace Sys2Proof.Machine

/-- REFRESH under a legal wiring, after the slots were set. -/
theorem Carries.refresh {l : List Move} {ms : List MicroStep} {s0 s : State} {q : Quad Nibble}
    (h : Carries l ms s0 { s with dig := q }) (hwf : s.par.wf = true) :
    Carries (l ++ [Move.main]) (ms ++ [MicroStep.act .refresh]) s0 (shown q q s) :=
  h.append (carries_refresh { s with dig := q } hwf)

/-- The slots with the digits of `x` on the tubes `i` and `j`. -/
def numberSlots (i j : Fin 4) (x : Byte) (q : Quad Nibble) : Quad Nibble :=
  (q.set i (tensDigit x.toNat)).set j (unitsDigit x.toNat)

/-- The slots with the tubes `i` and `j` blank. -/
def blankSlots (i j : Fin 4) (q : Quad Nibble) : Quad Nibble := (q.set i Config.blank).set j Config.blank

/-- A settings display: the number on the tubes `i` and `j`, the tubes `k` and `m` blank (44_modecontroller.md R202, R203). -/
def settingsSteps (n : NumArg) (i j k m : Fin 4) (p : BlankPush) : List MicroStep :=
  [MicroStep.act (.setDig i (.tens n)), .act (.setDig j (.units n)), .act .refresh, .act (.setDig k (.lit Config.blank)),
    .act (.setDig m (.lit Config.blank))] ++ blankPushSteps p

/-- What a settings display leaves: the lines show the blanks if they were pushed. -/
def settingsShown (n : NumArg) (i j k m : Fin 4) (s : State) : State :=
  let number := numberSlots i j (numArg n s) s.dig
  let both := blankSlots k m number
  shown both (match s.par.blankPush with | .sameIteration => both | .nextRefresh => number) s

theorem carries_settings (n : NumArg) (i j k m : Fin 4) (s : State) (ans : BusAnswer) (hn : (numArg n s).toNat ≤ 99)
    (hwf : s.par.wf = true) :
    Carries (responsiveMoves ans (settingsSteps n i j k m s.par.blankPush)) (settingsSteps n i j k m s.par.blankPush) s
      (settingsShown n i j k m s) := by
  obtain ⟨htens, -⟩ := digArg_digits n s hn
  have hsame : numArg n (storeDigit i (tensDigit (numArg n s).toNat) s) = numArg n s := by cases n <;> rfl
  obtain ⟨-, hunits⟩ := digArg_digits n (storeDigit i (tensDigit (numArg n s).toNat) s) (by rwa [hsame])
  rw [hsame] at hunits
  have hdigits : Carries _ _ s { s with dig := numberSlots i j (numArg n s) s.dig } :=
    ((carries_nil s).setDig i (.tens n) _ htens).setDig j (.units n) _ hunits
  have hblank : Carries _ _ s (shown (blankSlots k m (numberSlots i j (numArg n s) s.dig))
      (numberSlots i j (numArg n s) s.dig) s) :=
    ((hdigits.refresh hwf).setDig k (.lit Config.blank) _ rfl).setDig m (.lit Config.blank) _ rfl
  have hall := hblank.blankPush ans s.par.blankPush hwf
  rw [settingsSteps, responsiveMoves_append]
  exact hall

/-- Under ShortPress in SettingsMode Hours: clear the flag, increment WH, mark the change. -/
def hoursShortDone (s : State) : State := markChanged (incHours (clearShort s))

theorem carries_hoursShort (s : State) : Carries (List.replicate 3 .main) (blockSteps .hoursShort) s (hoursShortDone s) :=
  ((carries_act .clrSp s _ rfl).act .incWh _ rfl).act .markChanged _ rfl

/-- Under LongPress in SettingsMode Hours: clear the flag, go to SettingsMode Minutes. -/
def hoursLongDone (s : State) : State := storeMode 2#2 (clearLong s)

theorem carries_hoursLong (s : State) : Carries (List.replicate 2 .main) (blockSteps .hoursLong) s (hoursLongDone s) :=
  (carries_act .clrLp s _ rfl).act .toMinutes _ rfl

/-- What the handling of both flags leaves in SettingsMode Hours, as one record update. -/
theorem hoursHandled_eq (s : State) :
    handled hoursShortDone hoursLongDone s = { s with
      latch := s.lp, sp := false, lp := false
      wh := if s.sp then (if s.wh.toNat + 1 > 23 then 0#8 else s.wh + 1#8) else s.wh
      chg := s.sp || s.chg
      mode := if s.lp then 2#2 else s.mode } := by
  rw [← wrapInc_add 23]
  cases hsp : s.sp <;> cases hlp : s.lp <;>
    simp [handled, flagHandled, hoursShortDone, hoursLongDone, testShort, testLong, clearShort, clearLong, incHours,
      markChanged, storeMode, Config.hrsMax, hsp, hlp]

/-- The first micro-step of a settings display, which its operand allows. -/
theorem tens_ok (t : Fin 4) (n : NumArg) (s : State) (h : (numArg n s).toNat ≤ 99) :
    ∃ s1, performAction (.setDig t (.tens n)) s = .ok s1 := by
  obtain ⟨htens, -⟩ := digArg_digits n s h
  exact ⟨storeDigit t (tensDigit (numArg n s).toNat) s, by simp [performAction, htens]⟩

/-- Settles O55: the settings display of the hours and the handling of the two flags. -/
theorem modestepInHoursMode : Obligations.ModestepInHoursMode := by
  intro s ans hmode hw hwf
  have hshow := carries_settings .wh 0 1 2 3 s ans hw hwf
  have hall := hshow.append (carries_press carries_hoursShort carries_hoursLong (fun _ => rfl) _)
  obtain ⟨t, ht, hrun⟩ := Carries.enter_responsive (ans := ans) hall (tens_ok 0 .wh s hw)
  refine ⟨t, ?_, ?_⟩
  · rw [exec_modestep s (by simp [hmode]), modeBody, hmode]
    exact ht
  · rw [List.append_assoc]
    refine hrun.trans ?_
    cases hp : s.par.blankPush <;>
      simp [hoursHandled_eq, settingsShown, shown, hmode, hp, blankSlots, numberSlots, Quad.set, numArg, Config.blank]

/-- Under ShortPress in SettingsMode Minutes: clear the flag, increment WM, mark the change. -/
def minutesShortDone (s : State) : State := markChanged (incMinutes (clearShort s))

theorem carries_minutesShort (s : State) : Carries (List.replicate 3 .main) (blockSteps .minutesShort) s (minutesShortDone s) :=
  ((carries_act .clrSp s _ rfl).act .incWm _ rfl).act .markChanged _ rfl

/-- Under LongPress in SettingsMode Minutes without a change: clear the flag, go to ClockMode. -/
theorem carries_minutesLong (s : State) (hchg : s.chg = false) :
    Carries (List.replicate 3 .main) (blockSteps .minutesLong) s (storeMode 0#2 (clearLong s)) :=
  ((carries_act .clrLp s _ rfl).append (carries_ifSet_not .changed .commit _ hchg)).act .toClock _ rfl

/-- With a change: one WRTIME of the working values and seconds 0 between the two (44_modecontroller.md R203, R212). -/
theorem carries_minutesLong_commit (s : State) (ack : Bit) (d : Byte) (hready : DeviceReady s) (hchg : s.chg = true) :
    Carries ([Move.main, .main] ++ responsiveMoves (.device ack d) (writeTimeSteps .wh .wm (.lit 0#8)) ++ [Move.main])
      (blockSteps .minutesLong) s (storeMode 0#2 (afterWriteTime s.wh s.wm 0#8 (clearLong s))) := by
  have hwrite := carries_writeTime .wh .wm (.lit 0#8) s.wh s.wm 0#8 (clearLong s) ack d hready (fun _ h _ => h)
    (fun _ _ h => h) (fun _ _ _ => rfl)
  exact ((carries_act .clrLp s _ rfl).append (carries_ifSet .changed .commit _ _ _ hchg hwrite)).act .toClock _ rfl

/-- The display of SettingsMode Minutes and the handling of ShortPress. -/
def minutesShortHandled (s : State) : State :=
  flagHandled s.sp testShort minutesShortDone (settingsShown .wm 2 3 0 1 s)

theorem carries_minutesShortHandled (s : State) (ans : BusAnswer) (hw : s.wm.toNat ≤ 99) (hwf : s.par.wf = true) :
    Carries (responsiveMoves ans (settingsSteps .wm 2 3 0 1 s.par.blankPush) ++ pressMoves s.sp 3)
      (settingsSteps .wm 2 3 0 1 s.par.blankPush ++ [.act .tstSp, .ifSet .latchT .minutesShort]) s
      (minutesShortHandled s) :=
  (carries_settings .wm 2 3 0 1 s ans hw hwf).append
    (carries_flag .tstSp .minutesShort 3 _ (testShort _) _ s.sp rfl rfl fun _ => carries_minutesShort _)

/-- `minutesShown` is the state up to the commit: after the test and, if it was set, the clear of LP. -/
theorem minutesShown_eq (s : State) : clearLong (testLong (minutesShortHandled s)) = minutesShown s := by
  have hwrap := wrapInc_add 59 s.wm
  simp only [minutesShown, ← hwrap]
  cases hsp : s.sp <;> cases hp : s.par.blankPush <;>
    simp [minutesShortHandled, flagHandled, minutesShortDone, testShort, testLong, clearShort, clearLong, incMinutes,
      markChanged, Config.minMax, hsp, hp, settingsShown, shown, blankSlots, numberSlots, Quad.set, numArg, Config.blank]

/-- Handling ShortPress leaves LP as it was. -/
theorem minutesShortHandled_lp (s : State) : (minutesShortHandled s).lp = s.lp := by
  cases hsp : s.sp <;> simp [minutesShortHandled, flagHandled, minutesShortDone, hsp, settingsShown, shown]

theorem clearLong_of_clear (s : State) (h : s.lp = false) : clearLong s = s := by
  simp only [clearLong, ← h]

/-- With LP clear, the test of LP leads to the same state. -/
theorem minutesShown_eq_of_clear (s : State) (h : s.lp = false) : testLong (minutesShortHandled s) = minutesShown s := by
  rw [← minutesShown_eq, clearLong_of_clear]
  simpa [minutesShortHandled_lp] using h

/-- What the commit looks at is the same before the clear of LP. -/
theorem minutesShortHandled_fields (s : State) :
    (testLong (minutesShortHandled s)).chg = (s.sp || s.chg) ∧ (testLong (minutesShortHandled s)).wh = s.wh ∧
    (testLong (minutesShortHandled s)).wm = (minutesShown s).wm := by
  have hchg := congrArg State.chg (minutesShown_eq s)
  have hwh := congrArg State.wh (minutesShown_eq s)
  have hwm := congrArg State.wm (minutesShown_eq s)
  simp only [clearLong_fields] at hchg hwh hwm
  exact ⟨hchg, hwh, hwm⟩

/-- The handling of LongPress in an iteration that commits nothing. -/
theorem carries_minutesLongHandled (s : State) (hno : s.lp = false ∨ (s.sp || s.chg) = false) :
    Carries (pressMoves s.lp 3) [.act .tstLp, .ifSet .latchT .minutesLong] (minutesShortHandled s)
      (storeMode (if s.lp then 0#2 else s.mode) (minutesShown s)) := by
  have hflag := carries_flag .tstLp .minutesLong 3 _ (testLong (minutesShortHandled s)) _ s.lp rfl
    (minutesShortHandled_lp s) fun hlp => carries_minutesLong _ (by
      rw [(minutesShortHandled_fields s).1]; exact hno.resolve_left (by simp [hlp]))
  rw [minutesShown_eq] at hflag
  cases hlp : s.lp with
  | true => simpa [hlp] using hflag
  | false =>
    have hkept : storeMode s.mode (minutesShown s) = minutesShown s := rfl
    simpa [hlp, hkept, minutesShown_eq_of_clear s hlp] using hflag

/-- MODESTEP with MODE 2 enters the settings display of the minutes. -/
theorem exec_modestep_minutes (s : State) (hmode : s.mode = 2#2) :
    exec .modestep s = enter (settingsSteps .wm 2 3 0 1 s.par.blankPush ++ pressSteps .minutesShort .minutesLong) s := by
  rw [exec_modestep s (by simp [hmode]), modeBody, hmode]
  rfl

/-- Settles O56: the settings display of the minutes, ShortPress, and a LongPress that commits nothing. -/
theorem modestepInMinutesModeWithoutCommit : Obligations.ModestepInMinutesModeWithoutCommit := by
  intro s ans hmode hw hwf hno
  have hall := (carries_minutesShortHandled s ans hw hwf).append (carries_minutesLongHandled s hno)
  simp only [List.append_assoc] at hall
  obtain ⟨t, ht, hrun⟩ := Carries.enter_responsive (ans := ans) hall (tens_ok 2 .wm s hw)
  refine ⟨t, (exec_modestep_minutes s hmode).trans ht, ?_⟩
  rw [List.append_assoc, ← hmode]
  exact hrun

/-- The handling of a LongPress that commits. -/
theorem carries_minutesCommit (s : State) (ack : Bit) (d : Byte) (hready : DeviceReady s) (hlp : s.lp = true)
    (hchg : (s.sp || s.chg) = true) :
    Carries ([Move.main, .main] ++ ([Move.main, .main] ++
        responsiveMoves (.device ack d) (writeTimeSteps .wh .wm (.lit 0#8)) ++ [Move.main]))
      [.act .tstLp, .ifSet .latchT .minutesLong] (minutesShortHandled s)
      (storeMode 0#2 (afterWriteTime s.wh (minutesShown s).wm 0#8 (minutesShown s))) := by
  have hready' : DeviceReady (clearLong (testLong (minutesShortHandled s))) := by
    rw [minutesShown_eq]
    exact hready
  obtain ⟨hchg', hwh, hwm⟩ := minutesShortHandled_fields s
  have hblock := carries_minutesLong_commit (testLong (minutesShortHandled s)) ack d hready' (hchg'.trans hchg)
  rw [hwh, hwm, minutesShown_eq] at hblock
  have hopen := carries_ifSet .latchT .minutesLong (testLong (minutesShortHandled s)) _ _
    ((minutesShortHandled_lp s).trans hlp) hblock
  exact (carries_act .tstLp (minutesShortHandled s) _ rfl).append hopen

/-- Settles O57: as without a commit, with the WRTIME between the clear of LP and the end. -/
theorem modestepInMinutesModeWithCommit : Obligations.ModestepInMinutesModeWithCommit := by
  intro s ack d hmode hw hwf hmem hb hr hlp hchg
  have hready : DeviceReady s := ⟨hb, hr, s.par.wf_sla hwf⟩
  have hall := (carries_minutesShortHandled s (.device ack d) hw hwf).append (carries_minutesCommit s ack d hready hlp hchg)
  simp only [List.append_assoc] at hall
  obtain ⟨t, ht, hrun⟩ := Carries.enter_responsive (ans := .device ack d) hall (tens_ok 2 .wm s hw)
  have hread (x : Byte) : rtcRead (advancePc (storeMode 0#2 (afterWriteTime s.wh (minutesShown s).wm 0#8 (minutesShown s)))) x =
      if x = 0x02#8 then dec2bcd s.wh else if x = 0x01#8 then dec2bcd (minutesShown s).wm
      else if x = 0x00#8 then dec2bcd 0#8 else rtcRead s x :=
    (rtcRead_advancePc _ x).trans (rtcRead_afterWriteTime s.wh (minutesShown s).wm 0#8 x (minutesShown s) hmem)
  have hzero : dec2bcd 0#8 = 0x00#8 := by decide
  refine ⟨t, _, (exec_modestep_minutes s hmode).trans ht, ?_, ?_, (hread 0x00#8).trans (by simp [hzero]),
    (hread 0x01#8).trans (by simp), (hread 0x02#8).trans (by simp), fun x h0 h1 h2 => (hread x).trans (by simp [h0, h1, h2])⟩
  · simp only [List.append_assoc]
    exact hrun
  · have hpar : (minutesShown s).par = s.par := rfl
    have htrace : (minutesShown s).trace = s.trace := rfl
    simp [afterWriteTime, rtcSetTime, rtcWrite, storeMode, hpar, htrace]

end Sys2Proof.Machine
